-- ==== Sys2Proof/Word.lean ====
section
/-! DEFINITION. The bit vector types of the machine: the word, its byte and nibble, the register number and the
wider operands made of adjacent words (spec/00_scope.md R6, R21, R22, R28). -/

namespace Sys2Proof

/-- A word, sixteen bits (00_scope.md R6). Bit 0 of the source is the most significant bit, `w[15]` (R13, R14). -/
abbrev Word := BitVec 16

/-- A byte, eight binary digits (00_scope.md R6). -/
abbrev Byte := BitVec 8

/-- A four bit field of an instruction word, or a four bit field of a register. -/
abbrev Nibble := BitVec 4

/-- The number of a general register, 0 to 15 (00_scope.md R16: register numbers wrap modulo 16). -/
abbrev Reg := BitVec 4

/-- A double precision or floating point operand: two words, the most significant first (00_scope.md R22, R25). -/
abbrev Double := BitVec 32

/-- An extended precision floating point operand: three words, the most significant first (00_scope.md R28). -/
abbrev Triple := BitVec 48

end Sys2Proof
end

