-- ==== Sys2Proof/Machine/Float.lean ====
section
/-! DEFINITION. Floating point arithmetic: 00_scope.md R25 to R37, 46_add_subtract.md R433, R452, R470,
47_multiply_divide.md R484, R488, 48_logical_convert_exchange.md R547 to R550. Mantissas are integers, the fraction
times 2^(W-1), and exponents are integers until packed; W is 24 for floating and 40 for extended floating point. -/

namespace Sys2Proof.Machine

/-- `2^n` as an integer. -/
def twoPow (n : Nat) : Int := (Nat.pow 2 n : Nat)

/-- A floating point number taken apart: an integer mantissa and an exponent. -/
structure Unpacked where
  /-- `M`, the fraction times 2^(W-1). -/
  m : Int
  /-- `E`. -/
  e : Int
  deriving DecidableEq, Repr

/-- An interrupt that a floating point operation requests. -/
inductive FloatRequest where
  /-- No interrupt. -/
  | none
  /-- Floating point overflow, interrupt 3. -/
  | overflow
  /-- Floating point underflow, interrupt 6. -/
  | underflow
  deriving DecidableEq, Repr

/-- A result of floating point arithmetic and the interrupt it requests. -/
structure FloatResult where
  /-- The result, not yet packed. -/
  value : Unpacked
  /-- The interrupt requested. -/
  request : FloatRequest
  deriving DecidableEq, Repr

/-- `f_unpack(x32)` (00_scope.md R34). -/
def unpackFloat (x : Double) : Unpacked := ⟨(x.extractLsb' 8 24).toInt, (x.extractLsb' 0 8).toInt⟩

/-- `f_pack(M, E)` (00_scope.md R34). -/
def packFloat (u : Unpacked) : Double := BitVec.ofInt 24 u.m ++ BitVec.ofInt 8 u.e

/-- `ef_unpack(x48)`: the exponent lies between the two parts of the mantissa (00_scope.md R28, R34). -/
def unpackExtended (x : Triple) : Unpacked :=
  ⟨(x.extractLsb' 24 24 ++ x.extractLsb' 0 16 : BitVec 40).toInt, (x.extractLsb' 16 8).toInt⟩

/-- `ef_pack(M, E)` (00_scope.md R34). -/
def packExtended (u : Unpacked) : Triple :=
  (BitVec.ofInt 40 u.m).extractLsb' 16 24 ++ BitVec.ofInt 8 u.e ++ (BitVec.ofInt 40 u.m).extractLsb' 0 16

/-- A pattern that the standard allows as an operand: its first two bits differ (normalized), or every bit is zero
(00_scope.md R26, R31). -/
def isLegalFloat {w : Nat} (x : BitVec w) : Bool := x == 0 || x.getMsbD 0 != x.getMsbD 1

/-- The loop of `normalize`: the mantissa is doubled until its sign bit and the next bit differ. -/
def normalizeLoop (fuel w : Nat) (u : Unpacked) : Unpacked :=
  match fuel with
  | 0 => u
  | fuel + 1 =>
    if -twoPow (w - 2) ≤ u.m ∧ u.m < twoPow (w - 2) then normalizeLoop fuel w ⟨2 * u.m, u.e - 1⟩ else u

/-- `normalize(M, E, W)` (00_scope.md R35). A non-zero mantissa needs fewer than W doublings. -/
def normalize (w : Nat) (u : Unpacked) : Unpacked := if u.m = 0 then ⟨0, 0⟩ else normalizeLoop w w u

/-- `f_overflow(sign, W)` with its interrupt (00_scope.md R36). -/
def overflowResult (w : Nat) (negative : Bool) : FloatResult :=
  ⟨if negative then ⟨-twoPow (w - 1), 127⟩ else ⟨twoPow (w - 1) - 1, 127⟩, .overflow⟩

/-- The floating point zero with the underflow interrupt (00_scope.md R30). -/
def underflowResult : FloatResult := ⟨⟨0, 0⟩, .underflow⟩

/-- `f_finish(M, E, W)` (00_scope.md R36). -/
def finishFloat (w : Nat) (u : Unpacked) : FloatResult :=
  let v := normalize w u
  if v.e < -128 then underflowResult else ⟨v, .none⟩

/-- Alignment of the two operands of an add: the mantissa with the smaller exponent is shifted right, its lost bits
floored, unless the other mantissa is zero. Answers the mantissas and the common exponent
(46_add_subtract.md R433). -/
def alignFloat (a o : Unpacked) : Int × Int × Int :=
  let n := a.e - o.e
  if 0 < n then
    if a.m ≠ 0 then (a.m, Int.shiftRight o.m n.toNat, a.e) else (a.m, o.m, o.e)
  else if n < 0 then
    if o.m ≠ 0 then (Int.shiftRight a.m n.natAbs, o.m, o.e) else (a.m, o.m, a.e)
  else (a.m, o.m, a.e)

/-- `f_addsub` after the mantissas are added or subtracted: a sum that does not fit is halved, an exponent above
127 overflows, the rest is finished (46_add_subtract.md R433). -/
def settleSum (w : Nat) (m e : Int) : FloatResult :=
  let big := m < -twoPow (w - 1) ∨ twoPow (w - 1) ≤ m
  let m' := if big then Int.shiftRight m 1 else m
  let e' := if big then e + 1 else e
  if 127 < e' then overflowResult w (m' < 0) else finishFloat w ⟨m', e'⟩

/-- `f_addsub` with `sub` false (46_add_subtract.md R433). -/
def addFloat (w : Nat) (a o : Unpacked) : FloatResult :=
  let (ma, mo, e) := alignFloat a o
  settleSum w (ma + mo) e

/-- `f_addsub` with `sub` true (46_add_subtract.md R433). -/
def subFloat (w : Nat) (a o : Unpacked) : FloatResult :=
  let (ma, mo, e) := alignFloat a o
  settleSum w (ma - mo) e

/-- The double-length product of `f_mul` after the case of two mantissas of -1, normalized, checked for underflow
and cut to its upper W bits (47_multiply_divide.md R484). -/
def settleProduct (w : Nat) (p n : Int) : FloatResult :=
  let p' := if p = twoPow (2 * w - 1) then twoPow (2 * w - 2) else p
  let n' := if p = twoPow (2 * w - 1) then n + 1 else n
  if 127 < n' then overflowResult w (p' < 0)
  else
    let v := normalize (2 * w) ⟨p', n'⟩
    if v.e < -128 then underflowResult else ⟨⟨Int.shiftRight v.m w, v.e⟩, .none⟩

/-- `f_mul` (47_multiply_divide.md R484). -/
def mulFloat (w : Nat) (a o : Unpacked) : FloatResult :=
  let n := a.e + o.e
  if 127 < n then overflowResult w (decide (a.m < 0) != decide (o.m < 0))
  else if n < -128 then underflowResult
  else settleProduct w (2 * a.m * o.m) n

/-- `f_div` (47_multiply_divide.md R488). -/
def divFloat (w : Nat) (a o : Unpacked) : FloatResult :=
  let n := a.e - o.e
  if 127 < n ∨ o.m = 0 then overflowResult w (decide (a.m < 0) != decide (o.m < 0))
  else if n < -128 then underflowResult
  else
    let halve := o.m.natAbs ≤ a.m.natAbs
    let q := if halve then Int.fdiv (a.m * twoPow (w - 2)) o.m else Int.fdiv (a.m * twoPow (w - 1)) o.m
    let n' := if halve then n + 1 else n
    if 127 < n' then overflowResult w (q < 0) else finishFloat w ⟨q, n'⟩

/-- FABS (46_add_subtract.md R452). -/
def absFloat (o : Unpacked) : FloatResult :=
  if o.m = -twoPow 23 then
    if o.e = 127 then ⟨⟨twoPow 23 - 1, 127⟩, .overflow⟩ else ⟨⟨twoPow 22, o.e + 1⟩, .none⟩
  else if o.m < 0 then ⟨⟨-o.m, o.e⟩, .none⟩
  else ⟨o, .none⟩

/-- FNEG (46_add_subtract.md R470). -/
def negFloat (o : Unpacked) : FloatResult :=
  if o.m = -twoPow 23 ∧ o.e = 127 then ⟨⟨twoPow 23 - 1, 127⟩, .overflow⟩
  else if o.m = twoPow 22 ∧ o.e = -128 then ⟨⟨0, 0⟩, .underflow⟩
  else if o.m = -twoPow 23 then ⟨⟨twoPow 22, o.e + 1⟩, .none⟩
  else if o.m = twoPow 22 then ⟨⟨-twoPow 23, o.e - 1⟩, .none⟩
  else ⟨⟨-o.m, o.e⟩, .none⟩

/-- `fval` times 2^(W+127), an integer for every exponent, so that comparing these compares the values
(00_scope.md R37, 49_compare_nop_bpt.md section 4). -/
def scaledValue (u : Unpacked) : Int := u.m * twoPow (u.e + 128).toNat

/-- The integer part, truncated toward zero, none if the exponent is above `top`: FIX with W = 24 and top = 15,
EFIX with W = 40 and top = 31 (48_logical_convert_exchange.md R547, R549). -/
def integerPart (w : Nat) (top : Int) (o : Unpacked) : Option Int :=
  if top < o.e then Option.none
  else some (Int.tdiv o.m (twoPow ((w : Int) - 1 - o.e).toNat))

/-- FLT (48_logical_convert_exchange.md R548). -/
def floatOfWord (v : Word) : Double := packFloat (normalize 24 ⟨v.toInt * twoPow 8, 15⟩)

/-- EFLT (48_logical_convert_exchange.md R550). -/
def extendedOfDouble (v : Double) : Triple := packExtended (normalize 40 ⟨v.toInt * twoPow 8, 31⟩)

end Sys2Proof.Machine
end

