-- ==== Sys2Proof/Machine/Flags.lean ====
section
/-! DEFINITION. Condition status, and the fixed point arithmetic that sets carry and overflow: 00_scope.md R20, R23,
R24, R33; 41_bit.md R290; 42_shift.md R310, R326; 46_add_subtract.md R431, R432; 47_multiply_divide.md R481 to
R487; 49_compare_nop_bpt.md R560. -/

namespace Sys2Proof.Machine

/-- The word with only bit `n` set, in the source's numbering: bit 0 is the most significant (00_scope.md R13,
41_bit.md R290). -/
def bitMask (n : Nat) : Word := 0x8000#16 >>> n

/-- `CS_sign(v, W)`: zero, negative or positive; the carry bit is 0 (00_scope.md R20). -/
def csSign {w : Nat} (v : BitVec w) : Nibble :=
  if v = 0 then 0b0010#4 else if v.msb then 0b0001#4 else 0b0100#4

/-- `CS_arith(carry, v, W)` (00_scope.md R20). -/
def csArith {w : Nat} (carry : Bool) (v : BitVec w) : Nibble :=
  (if carry then 0b1000#4 else 0b0000#4) ||| csSign v

/-- The condition status of `a` compared with `d` (49_compare_nop_bpt.md R560). -/
def csCompare (a d : Int) : Nibble :=
  if a = d then 0b0010#4 else if a < d then 0b0001#4 else 0b0100#4

/-- The condition status of `a` compared with two limits (49_compare_nop_bpt.md R568). -/
def csLimits (a lo hi : Int) : Nibble :=
  if lo > hi then 0b1000#4 else if a < lo then 0b0001#4 else if a > hi then 0b0100#4 else 0b0010#4

/-- The condition status of a bit test: of the word with every other bit cleared (41_bit.md R290). -/
def csBit (v : Word) (n : Nibble) : Nibble := csSign (v &&& bitMask n.toNat)

/-- A fixed point sum or difference. -/
structure FixedSum (w : Nat) where
  /-- The low-order bits of the exact result (00_scope.md R24). -/
  value : BitVec w
  /-- A carry out of the most significant bit position, or no borrow. -/
  carry : Bool
  /-- Fixed point overflow (00_scope.md R23). -/
  overflow : Bool
  deriving DecidableEq, Repr

/-- `add_fixed(a, b, W)` (46_add_subtract.md R431). -/
def addFixed {w : Nat} (a b : BitVec w) : FixedSum w where
  value := a + b
  carry := Nat.pow 2 w ≤ a.toNat + b.toNat
  overflow := a.msb == b.msb && (a + b).msb != a.msb

/-- `sub_fixed(a, b, W)`: the accumulator plus the complement of the operand plus one
(46_add_subtract.md R432). -/
def subFixed {w : Nat} (a b : BitVec w) : FixedSum w where
  value := a + ~~~b + 1
  carry := Nat.pow 2 w ≤ a.toNat + (~~~b).toNat + 1
  overflow := a.msb != b.msb && (a + ~~~b + 1).msb == b.msb

/-- Whether an exact result is outside the range of a `w` bit two's complement number (00_scope.md R23). -/
def outOfRange (w : Nat) (v : Int) : Bool :=
  decide (v < -(Nat.pow 2 (w - 1) : Nat)) || decide ((Nat.pow 2 (w - 1) : Nat) ≤ v)

/-- The low-order bits of the exact product, and whether the product does not fit: `mul16` and `dmul`
(47_multiply_divide.md R481, R483). -/
def mulFixed {w : Nat} (a b : BitVec w) : BitVec w × Bool :=
  let p := a.toInt * b.toInt
  (BitVec.ofInt w p, outOfRange w p)

/-- `mul32(a, b)`: the exact 32-bit product of two words (47_multiply_divide.md R482). -/
def mulWide (a b : Word) : Double := BitVec.ofInt 32 (a.toInt * b.toInt)

/-- The quotient and remainder words of a division by a word, truncated toward zero, and whether it overflows:
`div16` with a word and `div32by16` with a double as the dividend (00_scope.md R33, 47_multiply_divide.md R485,
R486). A zero divisor gives zeros and overflow. -/
def divFixed {w : Nat} (a : BitVec w) (b : Word) : Word × Word × Bool :=
  if b = 0 then (0#16, 0#16, true)
  else
    let q := Int.tdiv a.toInt b.toInt
    (BitVec.ofInt 16 q, BitVec.ofInt 16 (Int.tmod a.toInt b.toInt), outOfRange 16 q)

/-- `ddiv(a, b)` (47_multiply_divide.md R487). -/
def divDouble (a b : Double) : Double × Bool :=
  if b = 0 then (0#32, true)
  else
    let q := Int.tdiv a.toInt b.toInt
    (BitVec.ofInt 32 q, outOfRange 32 q)

/-- The two's complement negative, and whether it is the same word: negate (46_add_subtract.md R460, R461). -/
def negFixed {w : Nat} (d : BitVec w) : BitVec w × Bool := (0 - d, d == BitVec.intMin w)

/-- The absolute value, and whether the operand is the most negative number (46_add_subtract.md R442, R443). -/
def absFixed {w : Nat} (d : BitVec w) : BitVec w × Bool :=
  (if d.msb then 0 - d else d, d == BitVec.intMin w)

/-- `shl(v, n, W)` (42_shift.md R310). -/
def shiftLeft {w : Nat} (v : BitVec w) (n : Nat) : BitVec w := v <<< n

/-- `shr(v, n, W)` (42_shift.md R310). -/
def shiftRight {w : Nat} (v : BitVec w) (n : Nat) : BitVec w := v >>> n

/-- `sar(v, n, W)` (42_shift.md R310). -/
def shiftArith {w : Nat} (v : BitVec w) (n : Nat) : BitVec w := v.sshiftRight n

/-- `rotl(v, n, W)` (42_shift.md R310). -/
def rotateLeft {w : Nat} (v : BitVec w) (n : Nat) : BitVec w := v.rotateLeft n

/-- `rotr(v, n, W)` (42_shift.md R310). -/
def rotateRight {w : Nat} (v : BitVec w) (n : Nat) : BitVec w := v.rotateRight n

/-- The sign position changes at some single step of a left shift by `n` (42_shift.md R321). -/
def signChanges {w : Nat} (v : BitVec w) (n : Nat) : Bool :=
  (List.range n).any fun k => (v <<< (k + 1)).msb != v.msb

/-- No overflow: the logical and cyclic shifts by a register (42_shift.md R320, R322). -/
def neverChanges {w : Nat} (_v : BitVec w) (_n : Nat) : Bool := false

/-- A shift by a signed count in a register: none if the count is out of range, else the result and whether the
shift overflows. A positive count shifts left, a negative one right (42_shift.md R326). -/
def shiftByCount {w : Nat} (left right : BitVec w → Nat → BitVec w) (overflows : BitVec w → Nat → Bool)
    (v : BitVec w) (count : Word) : Option (BitVec w × Bool) :=
  let n := count.toInt
  if w < n.natAbs then none
  else if 0 < n then some (left v n.toNat, overflows v n.toNat)
  else some (right v n.natAbs, false)

end Sys2Proof.Machine
end

