-- ==== Sys2Proof/Config.lean ====
section
/-! DEFINITION. What an implementation of the standard fixes (the parameters of 00_scope.md R7 to R12), and the
free values. A configuration is plain data that State carries and no step changes, so that a statement about every
state is a statement about every conforming machine. The free values are constants without a body: nothing can be
proved of them but that they are what they are. -/

namespace Sys2Proof

/-- How many page register groups a machine with expanded memory has (00_scope.md R7, 20_memory.md R127). -/
inductive PageGroups where
  /-- Groups 0 and 1. -/
  | two
  /-- Groups 0 to 3. -/
  | four
  /-- Groups 0 to 7. -/
  | eight
  /-- All groups, 0 to 15. -/
  | sixteen
  deriving DecidableEq, Repr

/-- The number of groups (20_memory.md R127). -/
def PageGroups.count (g : PageGroups) : Nat :=
  match g with
  | .two => 2
  | .four => 4
  | .eight => 8
  | .sixteen => 16

/-- A run of consecutive physical word addresses, or of consecutive command codes: from `base`, `size` of them. -/
structure Region where
  /-- The first address or code. -/
  base : Nat
  /-- How many there are. -/
  size : Nat
  deriving DecidableEq, Repr

/-- Whether a region holds an address. -/
def Region.holds (r : Region) (a : Nat) : Bool := r.base ≤ a && a < r.base + r.size

/-- The parameters of 00_scope.md R7, R9, R10, R11 and R12. `CONSOLE_CONNECTED` may change during a run
(92_eei_decisions.md, open parameters) and is a field of the console's state instead. -/
structure Config where
  /-- `XMEM`: expanded memory addressing is implemented. -/
  xmem : Bool
  /-- `XMEM_GROUPS`: the page register groups of a machine with `xmem`. -/
  xmemGroups : PageGroups
  /-- `XMEM_LOCK`: the access lock and key feature is implemented (it needs `xmem`). -/
  xmemLock : Bool
  /-- `HAS_MFSR`: the memory fault status register exists. -/
  hasMfsr : Bool
  /-- `HAS_PARITY`: memory parity checking exists. -/
  hasParity : Bool
  /-- `HAS_MPROT`: the memory block protect RAM exists. -/
  hasMprot : Bool
  /-- `HAS_SUROM`: a start up ROM exists. -/
  hasSurom : Bool
  /-- `SUROM`: its contents; its length is `SUROM_SIZE`. -/
  surom : List Word
  /-- `HAS_TIMERS`: interval timers A and B exist. -/
  hasTimers : Bool
  /-- `HAS_IOINT1`: input/output interrupt level 1 is used by an interface. -/
  hasIoint1 : Bool
  /-- `HAS_IOINT2`: input/output interrupt level 2 is used by an interface. -/
  hasIoint2 : Bool
  /-- `HAS_IOIC`: the two input/output interrupt code registers exist. -/
  hasIoic : Bool
  /-- `HAS_CONSOLE`: a maintenance console interface exists. -/
  hasConsole : Bool
  /-- `HAS_DISCRETE_OUT`: the discrete output buffer exists. -/
  hasDiscreteOut : Bool
  /-- `HAS_DISCRETE_IN`: the discrete input word exists. -/
  hasDiscreteIn : Bool
  /-- `HAS_NPU`: the normal power up discrete exists. -/
  hasNpu : Bool
  /-- `HAS_GO`: the trigger-go counter and its discrete output exist. -/
  hasGo : Bool
  /-- `HAS_DMA`: a DMA facility exists. -/
  hasDma : Bool
  /-- `HAS_TPIO`: the programmed output buffer can be read back. -/
  hasTpio : Bool
  /-- `PHYS_PRESENT`: the physical word addresses that exist are those in one of these regions (R9). -/
  present : List Region
  /-- `FT_IMPL` as the manufacturer chooses it; `Config.faultBits` adds what R10 requires (R10). -/
  ftImpl : Word
  /-- `GO_PERIOD`, in ticks of the go counter (R11; the unit is a DESIGN CHOICE, log 8). -/
  goPeriod : Nat
  /-- The programmed input/output and spare command codes that `IO_DEVICE` implements (R12). -/
  ioCodes : List Region
  deriving DecidableEq, Repr

/-- `FT_IMPL`: the fault register bits that exist (00_scope.md R10). Bits 5, 8, 9, 10 and 11 exist on every machine, bit
0 where expanded memory or the block protect RAM makes it reachable, bit 1 exactly with DMA, bit 2 exactly with parity;
the others, and an unreachable bit 0, are as `ftImpl` says. -/
def Config.faultBits (c : Config) : Word :=
  (c.ftImpl &&& 0x9B0F#16) ||| 0x04F0#16 ||| (if c.xmem || c.hasMprot then 0x8000#16 else 0#16) |||
    (if c.hasDma then 0x4000#16 else 0#16) ||| (if c.hasParity then 0x2000#16 else 0#16)

/-- The page register groups that exist: one, without page registers of its own, when there is no expanded
memory (10_state.md R61). -/
def Config.groups (c : Config) : Nat := if c.xmem then c.xmemGroups.count else 1

/-- Whether locks are checked: the lock feature needs expanded memory (00_scope.md R7). -/
def Config.locks (c : Config) : Bool := c.xmem && c.xmemLock

/-- The number of words of the start up ROM that a read can reach: a ROM has at most 65,536 (20_memory.md R133). -/
def Config.suromSize (c : Config) : Nat :=
  if c.hasSurom then (if c.surom.length ≤ 65536 then c.surom.length else 65536) else 0

/-- The number of words of the physical address space: 16-bit addresses without expanded memory, 20-bit with it
(10_state.md R72). -/
def Config.physicalWords (c : Config) : Nat := if c.xmem then 1048576 else 65536

/-- `PHYS_PRESENT(pa)`: the word exists (00_scope.md R9). -/
def Config.isPresent (c : Config) (pa : Nat) : Bool :=
  pa < c.physicalWords && c.present.any fun r => r.holds pa

/-- The free values: word `n` of the words that the spec leaves open and that a run has met. There is no body, so
that every statement holds whatever they are. DESIGN CHOICE (safe), log 11. -/
opaque freeWord : Nat → Word

end Sys2Proof
end

