-- ==== Sys2Proof/Machine/Installed.lean ====
section
/-! DEFINITION. The configuration of the machine that `State.reset` describes. DESIGN CHOICE (unsafe), log 1: the
standard has no default (00_scope.md R8), every statement about every state is about every configuration, and this
one is the largest, every option fitted but the start up ROM, whose contents only a manufacturer could give. -/

namespace Sys2Proof.Machine

/-- Every option fitted, all 16 page groups, all 2^20 words present, every fault bit implemented and every
programmed input/output code of 00_scope.md R12 answered; no start up ROM and no spare command. -/
def installed : Config where
  xmem := true
  xmemGroups := .sixteen
  xmemLock := true
  hasMfsr := true
  hasParity := true
  hasMprot := true
  hasSurom := false
  surom := []
  hasTimers := true
  hasIoint1 := true
  hasIoint2 := true
  hasIoic := true
  hasConsole := true
  hasDiscreteOut := true
  hasDiscreteIn := true
  hasNpu := true
  hasGo := true
  hasDma := true
  hasTpio := true
  present := [⟨0, 1048576⟩]
  ftImpl := 0xFFFF#16
  goPeriod := 1000
  ioCodes := [⟨0x0000, 0x400⟩, ⟨0x8000, 0x400⟩]

end Sys2Proof.Machine
end

