-- ==== Sys2Proof/Machine/Memory.lean ====
section
/-! DEFINITION. Main memory: a list of (byte address, byte) cells in one canonical form, addresses strictly rising
and no cell holding what an unlisted address reads as. Word `pa` of the standard's memory (10_state.md R72) is the
byte at `2 * pa` (its bits 0 to 7, the upper byte of 20_memory.md R111) and the byte at `2 * pa + 1` (its bits 8 to
15, the lower byte): log 4. -/

namespace Sys2Proof.Machine

/-- Main memory (10_state.md R72). -/
abbrev Memory := List Host.Cell

/-- What an unlisted byte reads as. DESIGN CHOICE (unsafe), log 3: the source does not say what memory holds at
power up (70_reset_and_hazards.md R663). -/
def Memory.unlisted : Byte := 0#8

/-- The byte at a byte address. -/
def Memory.byte (m : Memory) (a : Nat) : Byte :=
  match m with
  | [] => Memory.unlisted
  | (k, v) :: rest => if a = k then v else Memory.byte rest a

/-- A cell put in its place among the cells of a memory, in place of the cell of the same address. -/
def Memory.insertCell (m : Memory) (a : Nat) (v : Byte) : Memory :=
  match m with
  | [] => [(a, v)]
  | (k, w) :: rest =>
    if a < k then (a, v) :: (k, w) :: rest
    else if a = k then (a, v) :: rest
    else (k, w) :: Memory.insertCell rest a v

/-- The byte at a byte address set, the canonical form kept: the value an unlisted byte reads as takes no cell. -/
def Memory.setByte (m : Memory) (a : Nat) (v : Byte) : Memory :=
  if v = Memory.unlisted then m.filter fun cell => cell.1 != a else Memory.insertCell m a v

/-- The word at a physical word address (20_memory.md R110, R111). -/
def Memory.word (m : Memory) (pa : Nat) : Word := Memory.byte m (2 * pa) ++ Memory.byte m (2 * pa + 1)

/-- The word at a physical word address set. -/
def Memory.setWord (m : Memory) (pa : Nat) (w : Word) : Memory :=
  Memory.setByte (Memory.setByte m (2 * pa) (w.extractLsb' 8 8)) (2 * pa + 1) (w.extractLsb' 0 8)

/-- The canonical form of the cells from address `lo` on. -/
def Memory.wfFrom (lo : Nat) (m : Memory) : Bool :=
  match m with
  | [] => true
  | (k, v) :: rest => lo ≤ k && v != Memory.unlisted && Memory.wfFrom (k + 1) rest

/-- The canonical form: addresses strictly rise and no cell holds what an unlisted byte reads as. -/
def Memory.wf (m : Memory) : Bool := Memory.wfFrom 0 m

end Sys2Proof.Machine
end

