-- ==== Sys2Proof/Machine/State.lean ====
section
/-! DEFINITION. The state of the machine: every piece that 10_state.md R50 lists, the configuration, and the inputs
that the environment will apply; the events of 60_exceptions.md R656; and the machine right after reset. -/

namespace Sys2Proof.Machine

/-- The interrupts a user may define (60_exceptions.md R610, R616). -/
inductive SpareInterrupt where
  /-- Interrupt 2. -/
  | two
  /-- Interrupt 8. -/
  | eight
  /-- Interrupt 10. -/
  | ten
  /-- Interrupt 11. -/
  | eleven
  /-- Interrupt 13. -/
  | thirteen
  /-- Interrupt 15. -/
  | fifteen
  deriving DecidableEq, Repr

/-- The faults that agents outside the CPU raise (60_exceptions.md R603). -/
inductive OutsideFault where
  /-- Fault 1, DMA memory protection. -/
  | dmaProtection
  /-- Fault 2, memory parity. -/
  | memoryParity
  /-- Fault 3, PIO channel parity. -/
  | pioParity
  /-- Fault 4, DMA channel parity. -/
  | dmaParity
  /-- Fault 6, PIO transmission. -/
  | pioTransmission
  /-- Fault 13, built-in test. -/
  | builtInTest
  /-- Fault 14, spare BITE. -/
  | spareBite14
  /-- Fault 15, spare BITE. -/
  | spareBite15
  deriving DecidableEq, Repr

/-- The two levels of input/output interrupts (60_exceptions.md R616). -/
inductive IoLevel where
  /-- Level 1, interrupt 12. -/
  | one
  /-- Level 2, interrupt 14. -/
  | two
  deriving DecidableEq, Repr

/-- An access of a DMA device to one word of memory (20_memory.md R150, 60_exceptions.md R656). -/
inductive DmaAccess where
  /-- A word written at a physical address. -/
  | write (pa : BitVec 20) (w : Word)
  /-- A word read at a physical address. -/
  | read (pa : BitVec 20)
  deriving DecidableEq, Repr

/-- An event of the environment (60_exceptions.md R656, 70_reset_and_hazards.md R660). The five that
stand before `reset`, `consoleStatus` to `parityDamage`, say how the parts that R656 leaves to a parameter change
(log 8, 14, 15, 16, 27). -/
inductive Event where
  /-- Power is failing: interrupt 0 is requested (R614). -/
  | powerDown
  /-- A user-defined interrupt is requested. -/
  | extInterrupt (n : SpareInterrupt)
  /-- A channel requests an input/output interrupt and gives its address. -/
  | ioInterrupt (level : IoLevel) (channel : BitVec 7)
  /-- Ten microseconds have passed for timer A (R640). -/
  | tickA
  /-- A hundred microseconds have passed for timer B (R640). -/
  | tickB
  /-- A fault is found outside the CPU (R603). -/
  | extFault (k : OutsideFault)
  /-- A DMA device accesses memory between two steps. -/
  | dma (access : DmaAccess)
  /-- The discrete input lines take new levels. -/
  | discreteIn (v : Word)
  /-- The console sends a byte. -/
  | consoleInput (b : Byte)
  /-- The console restarts a halted processor. -/
  | consoleRestart
  /-- The console's status changes. -/
  | consoleStatus (v : Word)
  /-- The console is attached or taken away. -/
  | consoleConnect (attached : Bool)
  /-- A port has a word ready for an input command. -/
  | portInput (code w : Word)
  /-- The go counter counts down one (R641). -/
  | goTick
  /-- The word stored at a physical address goes bad. -/
  | parityDamage (pa : BitVec 20)
  /-- A reset that is not a power up. -/
  | reset
  /-- Power is applied. -/
  | powerUp
  deriving DecidableEq, Repr

/-- The interval timers (10_state.md R79). -/
structure Timers where
  /-- `TA`. -/
  ta : Word
  /-- `TB`. -/
  tb : Word
  /-- `TA_RUN`. -/
  taRun : Bool
  /-- `TB_RUN`. -/
  tbRun : Bool
  deriving DecidableEq, Repr

/-- The registers and lines of the input/output interfaces (10_state.md R80 to R84, R86), and the words that pass
between the machine and the ports of `IO_DEVICE`. -/
structure Interfaces where
  /-- `IOIC1`. -/
  ioic1 : Word
  /-- `IOIC2`. -/
  ioic2 : Word
  /-- `IOIC1_FRZ`. -/
  frz1 : Bool
  /-- `IOIC2_FRZ`. -/
  frz2 : Bool
  /-- `DMAEN`. -/
  dmaen : Bool
  /-- `DOUT`. -/
  dout : Word
  /-- `DIN`: the levels of the discrete input lines. -/
  din : Word
  /-- `NPU`. -/
  npu : Bool
  /-- The go discrete is high. -/
  goHigh : Bool
  /-- What the go counter still has to count. -/
  goCount : Nat
  /-- `POB`. -/
  pob : Word
  /-- The model's own: the commands and words that programmed and spare outputs have delivered, oldest first. -/
  portOut : List (Word × Word)
  /-- The model's own: the words ready for input commands, each with its command code, oldest first. -/
  portIn : List (Word × Word)
  deriving DecidableEq, Repr

/-- The console interface (10_state.md R85). -/
structure Console where
  /-- `CONSOLE_CONNECTED`. -/
  connected : Bool
  /-- The bytes the CPU has sent, oldest first. -/
  output : List Byte
  /-- The bytes the console has sent that the CPU has not taken, oldest first. -/
  input : List Byte
  /-- The status that RCS reads. -/
  status : Word
  deriving DecidableEq, Repr

/-- One set of sixteen page registers (10_state.md R74). -/
abbrev PageSet := Vector Word 16

/-- The state of the machine (10_state.md R50). -/
structure State where
  /-- The parameters of the machine (00_scope.md R7 to R12). No step changes them. -/
  cfg : Config
  /-- `R[0..15]` (10_state.md R51). -/
  regs : Vector Word 16
  /-- `IC` (R55). -/
  ic : Word
  /-- `SW`: CS, reserved, PS, AS (R57). -/
  sw : Word
  /-- `FT` (R63). -/
  ft : Word
  /-- `MK` (R66). -/
  mkr : Word
  /-- `PI` (R67). -/
  pir : Word
  /-- `INTEN` (R68). -/
  inten : Bool
  /-- `ENDLY` (R69). -/
  endly : Bool
  /-- `PIHOLD` (R70). -/
  pihold : Word
  /-- `HALTED` (R71). -/
  halted : Bool
  /-- `MEM` (R72). -/
  mem : Memory
  /-- `PRI[g][r]` (R74). -/
  pri : Vector PageSet 16
  /-- `PRO[g][r]` (R74). -/
  pro : Vector PageSet 16
  /-- `MFSR` (R76). -/
  mfsr : Word
  /-- `MPR[0..127]` (R77). -/
  mpr : Vector Word 128
  /-- `MPEN` (R77). -/
  mpen : Bool
  /-- `SUEN` (R78). -/
  suen : Bool
  /-- The interval timers (R79). -/
  timers : Timers
  /-- The input/output interfaces (R80 to R84, R86). -/
  io : Interfaces
  /-- The console interface (R85). -/
  console : Console
  /-- The model's own: a BEX has entered the executive, and the first instruction of the executive has not begun
  (43_jump_branch.md R348), log 29. -/
  atExecutive : Bool
  /-- The model's own: the physical addresses whose stored word has bad parity (20_memory.md R132), log 16. -/
  badParity : List Nat
  /-- The model's own: the events to come, the first list before the next step (60_exceptions.md R656), log 9. -/
  env : List (List Event)
  /-- The model's own: the DMA accesses to come inside the steps, the first list before the CPU's next reference to
  memory, the second before the one after it, and so on (20_memory.md R151, R153), log 17. -/
  bus : List (List DmaAccess)
  /-- The model's own: how many free values have been drawn, log 11. -/
  freeCount : Nat
  deriving DecidableEq, Repr

/-- Why a step can stop with a fault: nothing makes it. Every fault of the machine is a bit of FT and a pending
interrupt, and the machine goes on (60_exceptions.md R591, R601), so no constructor stands here. Log 18. -/
inductive Fault where
  deriving DecidableEq, Repr

/-- Why an instruction can be refused. -/
inductive Refusal where
  /-- Raised by an arm of `exec` whose instruction has no meaning in the model, and by nothing else. Safe: the model
  stops where the machine goes on. Every instruction has its meaning, so no arm raises it. -/
  | notModelled (mnemonic : String)
  deriving DecidableEq, Repr

/-- The page registers of group 0 after reset: page r of the logical space is page r of the physical space, with no
lock and no protection (70_reset_and_hazards.md R661). -/
def identityPages : PageSet := #v[0, 1, 2, 3, 4, 5, 6, 7, 8, 9, 10, 11, 12, 13, 14, 15]

/-- The page registers after reset. Groups 1 to 15: DESIGN CHOICE (unsafe), log 5; Table VI gives group 0 only
(70_reset_and_hazards.md R664). -/
def resetPages : Vector PageSet 16 := (Vector.replicate 16 (Vector.replicate 16 0#16)).set 0 identityPages

/-- The machine right after power up (70_reset_and_hazards.md R660 to R667). The values that the standard does not
give are the model's, each with its log entry: general registers (2), memory (3), page groups 1 to 15 (5), MFSR,
IOIC1, IOIC2, POB, DIN and the console (6), the configuration (1), the model's own fields (9, 11, 15, 16, 17, 29). -/
def State.reset : State where
  cfg := installed
  regs := Vector.replicate 16 0#16
  ic := 0#16
  sw := 0#16
  ft := 0#16
  mkr := 0#16
  pir := 0#16
  inten := false
  endly := false
  pihold := 0#16
  halted := false
  mem := []
  pri := resetPages
  pro := resetPages
  mfsr := 0#16
  mpr := Vector.replicate 128 0#16
  mpen := false
  suen := true
  timers := { ta := 0#16, tb := 0#16, taRun := true, tbRun := true }
  io :=
    { ioic1 := 0#16, ioic2 := 0#16, frz1 := false, frz2 := false, dmaen := false, dout := 0#16, din := 0#16,
      npu := true, goHigh := true, goCount := installed.goPeriod, pob := 0#16, portOut := [], portIn := [] }
  console := { connected := true, output := [], input := [], status := 0#16 }
  atExecutive := false
  badParity := []
  env := []
  bus := []
  freeCount := 0

end Sys2Proof.Machine
end

