-- ==== Sys2Proof/Machine/Ops.lean ====
section
/-! DEFINITION. The named operations on the state: registers and their pairs and triples, the status word, memory
references with their translation, protections and faults (20_memory.md), taking an interrupt and recording a fault
(60_exceptions.md), and the return from an interrupt beside them. -/

namespace Sys2Proof.Machine

/-- What a step and a meaning answer. -/
abbrev Outcome := Host.Outcome State Fault Refusal

/-! ### General registers -/

/-- `R[r]` (10_state.md R51). -/
def State.reg (s : State) (r : Reg) : Word := s.regs[r.toNat]

/-- `R[r] <- v` (10_state.md R51). -/
def State.setReg (s : State) (r : Reg) (v : Word) : State := { s with regs := s.regs.set r.toNat v }

/-- `RP[r]`: register r and the next one, modulo 16 (10_state.md R53). -/
def State.pair (s : State) (r : Reg) : Double := s.reg r ++ s.reg (r + 1)

/-- `RP[r] <- v` (10_state.md R53). -/
def State.setPair (s : State) (r : Reg) (v : Double) : State :=
  (s.setReg r (v.extractLsb' 16 16)).setReg (r + 1) (v.extractLsb' 0 16)

/-- `RT[r]`: register r and the next two, modulo 16 (10_state.md R53). -/
def State.triple (s : State) (r : Reg) : Triple := s.reg r ++ s.reg (r + 1) ++ s.reg (r + 2)

/-- `RT[r] <- v` (10_state.md R53). -/
def State.setTriple (s : State) (r : Reg) (v : Triple) : State :=
  ((s.setReg r (v.extractLsb' 32 16)).setReg (r + 1) (v.extractLsb' 16 16)).setReg (r + 2) (v.extractLsb' 0 16)

/-! ### Status word, instruction counter, pending interrupts -/

/-- `CS`, source bits 0 to 3 of SW (10_state.md R57). -/
def State.cs (s : State) : Nibble := s.sw.extractLsb' 12 4

/-- `PS`, source bits 8 to 11 of SW (10_state.md R57, R60). -/
def State.ps (s : State) : Nibble := s.sw.extractLsb' 4 4

/-- `AS`, source bits 12 to 15 of SW (10_state.md R57, R61). -/
def State.as (s : State) : Nibble := s.sw.extractLsb' 0 4

/-- `CS <- v`, the rest of SW kept (10_state.md R58). -/
def State.setCs (s : State) (v : Nibble) : State := { s with sw := v ++ s.sw.extractLsb' 0 12 }

/-- `IC` moved past `len` words (10_state.md R56). -/
def State.advance (s : State) (len : Word) : State := { s with ic := s.ic + len }

/-- `raise Int(n)` if the condition holds: PI{n} is set and the instruction goes on (60_exceptions.md R609). -/
def State.requestIf (s : State) (b : Bool) (n : Nat) : State :=
  { s with pir := s.pir ||| (if b then bitMask n else 0#16) }

/-! ### Faults -/

/-- The faults that the CPU raises (60_exceptions.md R600). -/
inductive CpuFault where
  /-- Fault 0, CPU memory protection. -/
  | protection
  /-- Fault 2, memory parity. -/
  | parity
  /-- Fault 5, illegal I/O command. -/
  | illegalCommand
  /-- Fault 8, illegal address. -/
  | illegalAddress
  /-- Fault 9, illegal instruction. -/
  | illegalInstruction
  /-- Fault 10, privileged instruction. -/
  | privileged
  deriving DecidableEq, Repr

/-- The fault register bit of a fault of the CPU (10_state.md R63). -/
def CpuFault.bit (k : CpuFault) : Nat :=
  match k with
  | .protection => 0
  | .parity => 2
  | .illegalCommand => 5
  | .illegalAddress => 8
  | .illegalInstruction => 9
  | .privileged => 10

/-- The fault register bit of a fault from outside (60_exceptions.md R603). -/
def OutsideFault.bit (k : OutsideFault) : Nat :=
  match k with
  | .dmaProtection => 1
  | .memoryParity => 2
  | .pioParity => 3
  | .dmaParity => 4
  | .pioTransmission => 6
  | .builtInTest => 13
  | .spareBite14 => 14
  | .spareBite15 => 15

/-- Whether a reference is to an instruction or to an operand (20_memory.md R122). -/
inductive RefKind where
  /-- The word of an instruction. -/
  | instruction
  /-- An operand. -/
  | operand
  deriving DecidableEq, Repr

/-- A reference to memory: the logical address, its kind, and the page register group it uses
(20_memory.md R121). -/
structure MemRef where
  /-- The logical address. -/
  la : Word
  /-- Instruction or operand. -/
  kind : RefKind
  /-- The page register group. -/
  group : Nibble
  deriving DecidableEq, Repr

/-- What aborts an instruction: a fault, and the reference that met it if it was a memory fault. -/
structure Abort where
  /-- The fault. -/
  fault : CpuFault
  /-- The reference of a memory fault. -/
  ref : Option MemRef
  deriving DecidableEq, Repr

/-- FT{k} is set if the machine implements it, and PI{1} (60_exceptions.md R601, R603; 10_state.md R65). -/
def State.recordFault (s : State) (k : Nat) : State :=
  { s with ft := s.ft ||| (bitMask k &&& s.cfg.faultBits), pir := s.pir ||| bitMask 1 }

/-- What MFSR captures of a reference: the page register number, seven zeros and the kind, the group
(20_memory.md R135, 10_state.md R76). -/
def designators (r : MemRef) : Word :=
  r.la.extractLsb' 12 4 ++ 0#7 ++ (if r.kind = .instruction then 1#1 else 0#1) ++ r.group

/-- MFSR captures the reference of a memory fault, where the register exists (20_memory.md R135). -/
def State.capture (s : State) (r : Option MemRef) : State :=
  { s with mfsr := if s.cfg.hasMfsr then (r.map designators).getD s.mfsr else s.mfsr }

/-- `raise Fault(k)`: the fault is recorded. The instruction is aborted by its meaning, which answers this state
with IC already at `nia` and nothing else of the instruction done (60_exceptions.md R601). -/
def State.raiseFault (s : State) (a : Abort) : State := (s.capture a.ref).recordFault a.fault.bit

/-- What references that end in writes have left: what follows them is done, or their fault is recorded
(20_memory.md R141, 60_exceptions.md R601). -/
def afterWrites (x : State × Option Abort) (k : State → State) : State :=
  match x with
  | (t, none) => k t
  | (t, some a) => t.raiseFault a

/-! ### Memory references -/

/-- The page register that a reference uses (20_memory.md R121, R122). -/
def State.pageRegister (s : State) (r : MemRef) : Word :=
  let set := match r.kind with
    | .instruction => s.pri[r.group.toNat]
    | .operand => s.pro[r.group.toNat]
  set[(r.la.extractLsb' 12 4).toNat]

/-- `translate`: the physical word address (20_memory.md R121). -/
def State.physical (s : State) (r : MemRef) : Nat :=
  if s.cfg.xmem then ((s.pageRegister r).extractLsb' 0 8 ++ r.la.extractLsb' 0 12).toNat else r.la.toNat

/-- `key_ok(AL, key)` (20_memory.md R123). -/
def keyOk (lock key : Nibble) : Bool := lock == 15#4 || key == 0#4 || key == lock

/-- The access key is refused by the lock of the page register (20_memory.md R123, R124). -/
def State.lockRefuses (s : State) (r : MemRef) (key : Nibble) : Bool :=
  s.cfg.locks && !keyOk ((s.pageRegister r).extractLsb' 12 4) key

/-- The E bit of an instruction page register, or the W bit of an operand page register, is one
(20_memory.md R125, R126). -/
def State.pageProtected (s : State) (r : MemRef) : Bool := s.cfg.xmem && (s.pageRegister r).getLsbD 11

/-- Block `pa / 1024` is protected by the words of the protect RAM from `base` on: 0 for the CPU, 64 for DMA
(20_memory.md R130). -/
def State.blockProtected (s : State) (base pa : Nat) : Bool :=
  s.cfg.hasMprot && s.mpen && (s.mpr[base + pa / 16384]?.getD 0#16).getMsbD (pa / 1024 % 16)

/-- A read of this physical address comes from the start up ROM (20_memory.md R133). -/
def State.romOverlays (s : State) (pa : Nat) : Bool := s.suen && decide (pa < s.cfg.suromSize)

/-- The word stored at this physical address has bad parity (20_memory.md R132). -/
def State.parityBad (s : State) (pa : Nat) : Bool := s.cfg.hasParity && s.badParity.contains pa

/-- The fault of a read, none if it delivers its word: lock, E bit of an instruction reference, presence, parity;
the start up ROM is present and has no parity (20_memory.md R134, R140). -/
def State.readFault (s : State) (r : MemRef) (key : Nibble) : Option CpuFault :=
  let pa := s.physical r
  if s.lockRefuses r key then some .protection
  else if r.kind = .instruction ∧ s.pageProtected r then some .protection
  else if s.romOverlays pa then none
  else if !s.cfg.isPresent pa then some .illegalAddress
  else if s.parityBad pa then some .parity
  else none

/-- The word that a read of a physical address delivers (20_memory.md R133, R140). -/
def State.readPhysical (s : State) (pa : Nat) : Word :=
  if s.romOverlays pa then s.cfg.surom.getD pa 0#16 else Memory.word s.mem pa

/-- `read_word` (20_memory.md R140). -/
def State.readWord (s : State) (r : MemRef) (key : Nibble) : Except Abort Word :=
  match s.readFault r key with
  | some k => .error ⟨k, some r⟩
  | none => .ok (s.readPhysical (s.physical r))

/-- The fault of a write, none if it stores its word: lock, W bit, block protect, presence
(20_memory.md R134, R141). -/
def State.writeFault (s : State) (r : MemRef) (key : Nibble) : Option CpuFault :=
  let pa := s.physical r
  if s.lockRefuses r key then some .protection
  else if s.pageProtected r then some .protection
  else if s.blockProtected 0 pa then some .protection
  else if !s.cfg.isPresent pa then some .illegalAddress
  else none

/-- A word stored at a physical address; it is stored with good parity (20_memory.md R141; log 16). -/
def State.storePhysical (s : State) (pa : Nat) (w : Word) : State :=
  { s with mem := Memory.setWord s.mem pa w, badParity := s.badParity.filter fun a => a != pa }

/-! ### Direct memory access -/

/-- DMA may touch memory (10_state.md R81, 60_exceptions.md R656). -/
def State.dmaAllowed (s : State) : Bool := s.cfg.hasDma && s.io.dmaen

/-- A write by a DMA device: a block that the DMA map protects is fault 1, an absent word fault 8, and neither changes
memory (20_memory.md R130, R131; log 17). An address outside the physical space selects no word of the map. -/
def State.dmaWrite (s : State) (pa : Nat) (w : Word) : State :=
  if s.dmaAllowed then
    if decide (pa < s.cfg.physicalWords) && s.blockProtected 64 pa then s.recordFault 1
    else if !s.cfg.isPresent pa then s.recordFault 8
    else s.storePhysical pa w
  else s

/-- A read by a DMA device: an absent word is fault 8, bad parity fault 2 (20_memory.md R131, R132; log 17). -/
def State.dmaRead (s : State) (pa : Nat) : State :=
  if s.dmaAllowed && !s.romOverlays pa then
    if !s.cfg.isPresent pa then s.recordFault 8 else if s.parityBad pa then s.recordFault 2 else s
  else s

/-- What an access of a DMA device does. -/
def State.dmaAccess (s : State) (a : DmaAccess) : State :=
  match a with
  | .write pa w => s.dmaWrite pa.toNat w
  | .read pa => s.dmaRead pa.toNat

/-! ### References in order -/

/-- The state in which the CPU makes its next reference: the DMA accesses that come before it are done
(20_memory.md R151, R153; log 17). -/
def State.awaitBus (s : State) : State :=
  match s.bus with
  | [] => s
  | now :: later => now.foldl State.dmaAccess { s with bus := later }

/-- What reads deliver, a value or the abort of the one that faulted, and the state after them. -/
abbrev Reading (α : Type) := Except Abort α × State

/-- Reads that go on with what earlier ones delivered (20_memory.md R151). -/
def Reading.andThen {α β : Type} (x : Reading α) (k : α → State → Reading β) : Reading β :=
  match x with
  | (.error a, s) => (.error a, s)
  | (.ok v, s) => k v s

/-- A read made in its turn on the bus. -/
def State.reference (s : State) (r : MemRef) (key : Nibble) : Reading Word := (s.awaitBus.readWord r key, s.awaitBus)

/-- `write_word` (20_memory.md R141): the word stored, or the abort. -/
def State.writeWord (s : State) (r : MemRef) (key : Nibble) (w : Word) : State × Option Abort :=
  match s.writeFault r key with
  | some k => (s, some ⟨k, some r⟩)
  | none => (s.storePhysical (s.physical r) w, none)

/-- Operand writes of words at logical addresses, in order and each in its turn on the bus, with a group and a key: each
is checked when it is made, and one that faults leaves the earlier ones made and ends the writing
(20_memory.md R141). -/
def State.writeAll (s : State) (group key : Nibble) (ws : List (Word × Word)) : State × Option Abort :=
  match ws with
  | [] => (s, none)
  | (la, w) :: rest =>
    match s.awaitBus.writeWord ⟨la, .operand, group⟩ key w with
    | (t, some a) => (t, some a)
    | (t, none) => State.writeAll t group key rest

/-- Words at consecutive logical addresses, modulo 65,536 (20_memory.md R115). -/
def consecutive (la : Word) (ws : List Word) : List (Word × Word) :=
  match ws with
  | [] => []
  | w :: rest => (la, w) :: consecutive (la + 1) rest

/-! ### The status word load -/

/-- `load_SW(s)`: the status word is loaded; an address state that the machine does not implement records fault 11
and loads as 0 (60_exceptions.md R608). It aborts nothing. -/
def State.loadSw (s : State) (v : Word) : State :=
  if s.cfg.groups ≤ (v.extractLsb' 0 4).toNat then
    { s.recordFault 11 with sw := v.extractLsb' 4 12 ++ 0#4 }
  else { s with sw := v }

/-! ### Taking an interrupt, and returning from one -/

/-- An interrupt mask, a status word and an instruction counter: what an interrupt stores and loads
(60_exceptions.md R611). -/
structure Context where
  /-- The interrupt mask. -/
  mask : Word
  /-- The status word. -/
  status : Word
  /-- The instruction counter. -/
  counter : Word
  deriving DecidableEq, Repr

/-- A read of the interrupt sequence: operand set of group 0, key 0 (20_memory.md R128). -/
def State.readVector (s : State) (la : Word) : Reading Word := s.reference ⟨la, .operand, 0#4⟩ 0#4

/-- The five reads of the interrupt sequence for interrupt `n` with entry `entry`: the new context, and the
linkage pointer (60_exceptions.md R611, R624). -/
def State.readService (s : State) (n : Nat) (entry : Nibble) : Reading (Context × Word) :=
  (s.readVector (0x0021#16 + BitVec.ofNat 16 (2 * n))).andThen fun svp s1 =>
  (s1.readVector svp).andThen fun mask s2 =>
  (s2.readVector (svp + 1)).andThen fun status s3 =>
  (s3.readVector (svp + 2 + entry.setWidth 16)).andThen fun counter s4 =>
  (s4.readVector (0x0020#16 + BitVec.ofNat 16 (2 * n))).andThen fun lp s5 => (.ok (⟨mask, status, counter⟩, lp), s5)

/-- A context loaded: MK, SW through `load_SW`, IC (60_exceptions.md R624, R630). -/
def State.loadContext (s : State) (c : Context) : State :=
  { ({ s with mkr := c.mask } : State).loadSw c.status with ic := c.counter }

/-- The freeze flag that the interrupt sequence for `n` sets (60_exceptions.md R616, R624). -/
def State.freeze (s : State) (n : Nat) : State :=
  if s.cfg.hasIoic then
    { s with io := { s.io with frz1 := s.io.frz1 || n == 12, frz2 := s.io.frz2 || n == 14 } }
  else s

/-- Interrupts and a pending enable cleared (60_exceptions.md R624). -/
def State.disable (s : State) : State := { s with inten := false, endly := false }

/-- `interrupt_sequence(n, N)` (60_exceptions.md R624), up to the fault of a reference that is refused (R629). The
request is consumed whatever happens. A fault on a read leaves MK, SW, IC, INTEN and ENDLY; a fault on a linkage store
leaves the new context in force and the earlier stores made. That such a fault freezes no code register is DEDUCED,
log 20. -/
def State.interruptSequence (s : State) (n : Nat) (entry : Nibble) : State × Option Abort :=
  let s0 := { s with pir := s.pir &&& ~~~bitMask n, pihold := s.pihold &&& ~~~bitMask n }
  match s0.readService n entry with
  | (.error a, t) => (t, some a)
  | (.ok (c, lp), t) =>
    let s1 := t.loadContext c
    match s1.writeAll s1.as 0#4 (consecutive lp [s.mkr, s.sw, s.ic]) with
    | (s2, none) => (s2.disable.freeze n, none)
    | (s2, some a) => (s2.disable, some a)

/-- Taking an interrupt at a boundary: its sequence, a fault in it recorded (60_exceptions.md R624, R628, R629). -/
def State.takeInterrupt (s : State) (n : Nat) (entry : Nibble) : State := afterWrites (s.interruptSequence n entry) id

/-- The boundary between a BEX that has entered the executive and the first instruction there: no interrupt is taken
at it (43_jump_branch.md R348; log 29). -/
def State.holdBoundary (s : State) : State := { s with atExecutive := true }

/-! ### Free values -/

/-- A free value drawn (log 11): the value, and the state in which the next one is another. -/
def State.draw (s : State) : Word × State := (freeWord s.freeCount, { s with freeCount := s.freeCount + 1 })

end Sys2Proof.Machine
end

