-- ==== Sys2Proof/Machine/Operands.lean ====
section
/-! DEFINITION. Derived addresses and operands by addressing mode (30_encoding.md R180 to R193), the operand
references of an instruction (20_memory.md R140, R141), and how an instruction ends when one of them faults
(60_exceptions.md R601). A meaning works on the state whose IC is already at the next instruction, `s.advance len`,
so that a fault that aborts it leaves IC = nia. -/

namespace Sys2Proof.Machine

/-! ### Derived addresses and immediate operands -/

/-- `idx(RX)`: 0 if RX is 0, else the register (30_encoding.md R185). -/
def State.index (s : State) (rx : Reg) : Word := if rx = 0 then 0#16 else s.reg rx

/-- The derived address of modes D and DX, and the operand of modes IM and IMX (30_encoding.md R182, R186). -/
def State.direct (s : State) (addr : Word) (rx : Reg) : Word := addr + s.index rx

/-- The derived address of mode B: base register plus unsigned displacement (30_encoding.md R189). -/
def State.based (s : State) (br : Reg) (du : Byte) : Word := s.reg br + du.setWidth 16

/-- The derived address of mode BX: base register plus index register (30_encoding.md R190). -/
def State.baseIndexed (s : State) (br rx : Reg) : Word := s.reg br + s.index rx

/-- The derived address of mode ICR, from the address of the branch itself (30_encoding.md R188). -/
def State.relative (s : State) (d : Byte) : Word := s.ic + d.signExtend 16

/-- The operand of mode ISP (30_encoding.md R187). -/
def shortPositive (n : Nat) : Word := BitVec.ofNat 16 n

/-- The operand of mode ISN (30_encoding.md R187). -/
def shortNegative (n : Nat) : Word := 0#16 - BitVec.ofNat 16 n

/-! ### Operand references -/

/-- The reference of an operand under the current address state (20_memory.md R121, R122). -/
def State.operandRef (s : State) (la : Word) : MemRef := ⟨la, .operand, s.as⟩

/-- `MemRead(a, 1)` (20_memory.md R140). -/
def State.read (s : State) (la : Word) : Reading Word := s.reference (s.operandRef la) s.ps

/-- `MemRead(a, 2)` (20_memory.md R140). -/
def State.readDouble (s : State) (la : Word) : Reading Double :=
  (s.read la).andThen fun a s1 => (s1.read (la + 1)).andThen fun b s2 => (.ok (a ++ b), s2)

/-- `MemRead(a, 3)` (20_memory.md R140). -/
def State.readTriple (s : State) (la : Word) : Reading Triple :=
  (s.readDouble la).andThen fun ab s1 => (s1.read (la + 2)).andThen fun c s2 => (.ok (ab ++ c), s2)

/-- `n` operand reads at consecutive addresses (20_memory.md R140, R143). -/
def State.readMany (s : State) (la : Word) (n : Nat) : Reading (List Word) :=
  match n with
  | 0 => (.ok [], s)
  | n + 1 => (s.read la).andThen fun a s1 => (s1.readMany (la + 1) n).andThen fun rest s2 => (.ok (a :: rest), s2)

/-- The derived address of modes I and IX: the word at the direct address (30_encoding.md R183). -/
def State.indirect (s : State) (addr : Word) (rx : Reg) : Reading Word := s.read (s.direct addr rx)

/-- Operand writes under the current address state and key, and what is done when all are made; a write that
faults aborts the instruction, the earlier ones made (20_memory.md R141, 60_exceptions.md R601). -/
def State.writeThen (s : State) (ws : List (Word × Word)) (k : State → State) : State :=
  afterWrites (s.writeAll s.as s.ps ws) k

/-- `MemWrite(a, n, v)` as the last action of an instruction (20_memory.md R141). -/
def State.store (s : State) (la : Word) (ws : List Word) : State := s.writeThen (consecutive la ws) id

/-- An instruction that goes on with what its reads delivered, or is aborted by the one that faulted
(30_encoding.md R193, 60_exceptions.md R601). -/
def onRead {α : Type} (x : Reading α) (k : α → State → State) : Outcome :=
  match x with
  | (.error a, t) => .next (t.raiseFault a)
  | (.ok v, t) => .next (k v t)

/-- The operand of modes D and DX, single precision (30_encoding.md R182). -/
def State.directWord (s : State) (addr : Word) (rx : Reg) : Reading Word := s.read (s.direct addr rx)

/-- The operand of modes D and DX, double precision and floating point (30_encoding.md R182). -/
def State.directDouble (s : State) (addr : Word) (rx : Reg) : Reading Double := s.readDouble (s.direct addr rx)

/-- The operand of modes D and DX, extended floating point (30_encoding.md R182). -/
def State.directTriple (s : State) (addr : Word) (rx : Reg) : Reading Triple := s.readTriple (s.direct addr rx)

/-- The operand of modes I and IX, single precision (30_encoding.md R183). -/
def State.indirectWord (s : State) (addr : Word) (rx : Reg) : Reading Word :=
  (s.indirect addr rx).andThen fun da s1 => s1.read da

/-- The operand of modes I and IX, double precision (30_encoding.md R183). -/
def State.indirectDouble (s : State) (addr : Word) (rx : Reg) : Reading Double :=
  (s.indirect addr rx).andThen fun da s1 => s1.readDouble da

/-- The operand of mode B, single precision (30_encoding.md R189). -/
def State.basedWord (s : State) (br : Reg) (du : Byte) : Reading Word := s.read (s.based br du)

/-- The operand of mode B, double precision and floating point (30_encoding.md R189). -/
def State.basedDouble (s : State) (br : Reg) (du : Byte) : Reading Double := s.readDouble (s.based br du)

/-- The operand of mode BX, single precision (30_encoding.md R190). -/
def State.baseIndexedWord (s : State) (br rx : Reg) : Reading Word := s.read (s.baseIndexed br rx)

/-- The operand of mode BX, double precision and floating point (30_encoding.md R190). -/
def State.baseIndexedDouble (s : State) (br rx : Reg) : Reading Double := s.readDouble (s.baseIndexed br rx)

/-- A derived address with the word there, for an instruction that stores it back changed (20_memory.md R143). -/
def State.cell (s : State) (da : Word) : Reading (Word × Word) := (s.read da).andThen fun q s1 => (.ok (da, q), s1)

/-- The derived address of modes D and DX with the word there (20_memory.md R143). -/
def State.directCell (s : State) (addr : Word) (rx : Reg) : Reading (Word × Word) := s.cell (s.direct addr rx)

/-- The derived address of modes I and IX with the word there (20_memory.md R143). -/
def State.indirectCell (s : State) (addr : Word) (rx : Reg) : Reading (Word × Word) :=
  (s.indirect addr rx).andThen fun da s1 => s1.cell da

/-- The word of a cell changed and stored back, whole, in its own turn on the bus: a DMA access may come between the
read and the write, and is then overwritten (20_memory.md R143, R153). -/
def storeBack (f : State → Word → Word) (cell : Word × Word) (s : State) : State := s.store cell.1 [f s cell.2]

/-- An instruction of `len` words that reads its operand and then does `k` with it (30_encoding.md R193). -/
def onOperand {α : Type} (s : State) (len : Word) (operand : State → Reading α) (k : α → State → State) : Outcome :=
  onRead (operand (s.advance len)) k

/-- An instruction of `len` words that references no operand in memory. -/
def completing (s : State) (len : Word) (k : State → State) : Outcome := .next (k (s.advance len))

/-! ### The bits and bytes of a word -/

/-- A word with bit `n` set (41_bit.md R291). -/
def withBit (v : Word) (n : Nibble) : Word := v ||| bitMask n.toNat

/-- A word with bit `n` cleared (41_bit.md R294). -/
def withoutBit (v : Word) (n : Nibble) : Word := v &&& ~~~bitMask n.toNat

/-- The upper byte of a word (20_memory.md R111). -/
def upperByte (v : Word) : Byte := v.extractLsb' 8 8

/-- The lower byte of a word (20_memory.md R111). -/
def lowerByte (v : Word) : Byte := v.extractLsb' 0 8

/-- A word with its upper byte replaced (45_store.md R422). -/
def withUpperByte (v : Word) (b : Byte) : Word := b ++ lowerByte v

/-- A word with its lower byte replaced (44_load.md R392, 45_store.md R424). -/
def withLowerByte (v : Word) (b : Byte) : Word := upperByte v ++ b

end Sys2Proof.Machine
end

