-- ==== Sys2Proof/Machine/FloatOps.lean ====
section
/-! DEFINITION. What a floating point instruction does with its result (46_add_subtract.md R430, R434), and what it
does when an operand is neither normalized nor zero: the result registers, CS and the interrupts it may request are
then free values (93_implementation_defined.md U4; log 12). -/

namespace Sys2Proof.Machine

/-- The interrupt that a floating point result requests (00_scope.md R30, 60_exceptions.md R609). -/
def State.requestFloat (s : State) (r : FloatRequest) : State :=
  match r with
  | .none => s
  | .overflow => s.requestIf true 3
  | .underflow => s.requestIf true 6

/-- The interrupts of 93_implementation_defined.md U4: 3, 4 and 6. -/
def openRequests : Word := bitMask 3 ||| bitMask 4 ||| bitMask 6

/-- CS any value, and any of interrupts 3, 4 and 6 requested (93_implementation_defined.md U4; log 12). -/
def State.openStatus (s : State) : State :=
  let (status, s1) := s.draw
  let (requests, s2) := s1.draw
  { s2.setCs (status.extractLsb' 0 4) with pir := s2.pir ||| (requests &&& openRequests) }

/-- A register any value (93_implementation_defined.md U4; log 12). -/
def State.openReg (s : State) (r : Reg) : State :=
  let (v, s1) := s.draw
  s1.setReg r v

/-- The outcome of a floating point operation on an operand that the standard does not allow, with a pair as its
result. -/
def State.openPair (s : State) (r : Reg) : State := ((s.openReg r).openReg (r + 1)).openStatus

/-- The same with a triple as its result. -/
def State.openTriple (s : State) (r : Reg) : State :=
  (((s.openReg r).openReg (r + 1)).openReg (r + 2)).openStatus

/-- A floating point result written to a pair: the registers, then CS, then the interrupt
(46_add_subtract.md R430, R434). -/
def State.putFloat (s : State) (r : Reg) (v : FloatResult) : State :=
  ((s.setPair r (packFloat v.value)).setCs (csSign (packFloat v.value))).requestFloat v.request

/-- An extended floating point result written to a triple (46_add_subtract.md R430, R434). -/
def State.putExtended (s : State) (r : Reg) (v : FloatResult) : State :=
  ((s.setTriple r (packExtended v.value)).setCs (csSign (packExtended v.value))).requestFloat v.request

/-- A floating point operation on the pair of the accumulator and an operand (46_add_subtract.md section 6). -/
def floatWith (op : Unpacked → Unpacked → FloatResult) (acc : Reg) (d : Double) (s : State) : State :=
  if isLegalFloat (s.pair acc) && isLegalFloat d then s.putFloat acc (op (unpackFloat (s.pair acc)) (unpackFloat d))
  else s.openPair acc

/-- An extended floating point operation on the triple of the accumulator and an operand
(46_add_subtract.md section 7). -/
def extendedWith (op : Unpacked → Unpacked → FloatResult) (acc : Reg) (d : Triple) (s : State) : State :=
  if isLegalFloat (s.triple acc) && isLegalFloat d then
    s.putExtended acc (op (unpackExtended (s.triple acc)) (unpackExtended d))
  else s.openTriple acc

/-- A floating point operation on one operand, its result in a pair (46_add_subtract.md R452, R470). -/
def floatOf (op : Unpacked → FloatResult) (ra : Reg) (d : Double) (s : State) : State :=
  if isLegalFloat d then s.putFloat ra (op (unpackFloat d)) else s.openPair ra

end Sys2Proof.Machine
end

