-- ==== Sys2Proof/Machine/AddSub.lean ====
section
/-! DEFINITION. The add, subtract, increment, decrement, absolute value and negate instructions
(46_add_subtract.md). -/

namespace Sys2Proof.Machine

/-- A word added to the accumulator: the result, CS with carry, and the overflow request
(46_add_subtract.md R430). -/
def addWord (acc : Reg) (d : Word) (s : State) : State :=
  let r := addFixed (s.reg acc) d
  ((s.setReg acc r.value).setCs (csArith r.carry r.value)).requestIf r.overflow 4

/-- A double added to the accumulator pair (46_add_subtract.md R430). -/
def addPair (acc : Reg) (d : Double) (s : State) : State :=
  let r := addFixed (s.pair acc) d
  ((s.setPair acc r.value).setCs (csArith r.carry r.value)).requestIf r.overflow 4

/-- A word subtracted from the accumulator: the result, CS with carry, and the overflow request
(46_add_subtract.md R430). -/
def subWord (acc : Reg) (d : Word) (s : State) : State :=
  let r := subFixed (s.reg acc) d
  ((s.setReg acc r.value).setCs (csArith r.carry r.value)).requestIf r.overflow 4

/-- A double subtracted from the accumulator pair (46_add_subtract.md R430). -/
def subPair (acc : Reg) (d : Double) (s : State) : State :=
  let r := subFixed (s.pair acc) d
  ((s.setPair acc r.value).setCs (csArith r.carry r.value)).requestIf r.overflow 4

/-- INCM and DECM after the read: the sum or difference stored, then CS with carry, then the overflow request
(46_add_subtract.md R441, R459). -/
def updateMemory (op : Word → Word → FixedSum 16) (n : Nat) (cell : Word × Word) (s : State) : State :=
  let r := op cell.2 (shortPositive n)
  s.writeThen [(cell.1, r.value)] fun t => (t.setCs (csArith r.carry r.value)).requestIf r.overflow 4

/-- A word result that can only overflow from the most negative operand: ABS and NEG (46_add_subtract.md R442,
R460). -/
def putSigned (ra : Reg) (r : Word × Bool) (s : State) : State :=
  ((s.setReg ra r.1).setCs (csSign r.1)).requestIf r.2 4

/-- A double result that can only overflow from the most negative operand: DABS and DNEG (46_add_subtract.md R443,
R461). -/
def putSignedPair (ra : Reg) (r : Double × Bool) (s : State) : State :=
  ((s.setPair ra r.1).setCs (csSign r.1)).requestIf r.2 4

/-- AR, add, register (R435). -/
def execAr (ra rb : Reg) (s : State) : Outcome :=
  completing s 1 fun n => addWord ra (n.reg rb) n

/-- AB, add, base relative (R436). -/
def execAb (br : Reg) (du : Byte) (s : State) : Outcome :=
  onOperand s 1 (·.basedWord br du) (addWord 2)

/-- ABX, add, base relative indexed (R437). -/
def execAbx (br rx : Reg) (s : State) : Outcome :=
  onOperand s 1 (·.baseIndexedWord br rx) (addWord 2)

/-- AISP, add immediate short positive (R438). -/
def execAisp (ra : Reg) (n : Nat) (s : State) : Outcome :=
  completing s 1 (addWord ra (shortPositive n))

/-- A, add, direct (R439). -/
def execA (ra : Reg) (addr : Word) (rx : Reg) (s : State) : Outcome :=
  onOperand s 2 (·.directWord addr rx) (addWord ra)

/-- AIM, add immediate (R440). -/
def execAim (ra : Reg) (data : Word) (s : State) : Outcome :=
  completing s 2 (addWord ra data)

/-- INCM, increment memory by a positive integer (R441). -/
def execIncm (n : Nat) (addr : Word) (rx : Reg) (s : State) : Outcome :=
  onOperand s 2 (·.directCell addr rx) (updateMemory addFixed n)

/-- ABS, single precision absolute value of register (R442). -/
def execAbs (ra rb : Reg) (s : State) : Outcome :=
  completing s 1 fun n => putSigned ra (absFixed (n.reg rb)) n

/-- DABS, double precision absolute value of register (R443). -/
def execDabs (ra rb : Reg) (s : State) : Outcome :=
  completing s 1 fun n => putSignedPair ra (absFixed (n.pair rb)) n

/-- DAR, double add, register (R444). -/
def execDar (ra rb : Reg) (s : State) : Outcome :=
  completing s 1 fun n => addPair ra (n.pair rb) n

/-- DA, double add, direct (R445). -/
def execDa (ra : Reg) (addr : Word) (rx : Reg) (s : State) : Outcome :=
  onOperand s 2 (·.directDouble addr rx) (addPair ra)

/-- FAR, floating add, register (R446). -/
def execFar (ra rb : Reg) (s : State) : Outcome :=
  completing s 1 fun n => floatWith (addFloat 24) ra (n.pair rb) n

/-- FAB, floating add, base relative (R447). -/
def execFab (br : Reg) (du : Byte) (s : State) : Outcome :=
  onOperand s 1 (·.basedDouble br du) (floatWith (addFloat 24) 0)

/-- FABX, floating add, base relative indexed (R448). -/
def execFabx (br rx : Reg) (s : State) : Outcome :=
  onOperand s 1 (·.baseIndexedDouble br rx) (floatWith (addFloat 24) 0)

/-- FA, floating add, direct (R449). -/
def execFa (ra : Reg) (addr : Word) (rx : Reg) (s : State) : Outcome :=
  onOperand s 2 (·.directDouble addr rx) (floatWith (addFloat 24) ra)

/-- EFAR, extended floating add, register (R450). -/
def execEfar (ra rb : Reg) (s : State) : Outcome :=
  completing s 1 fun n => extendedWith (addFloat 40) ra (n.triple rb) n

/-- EFA, extended floating add, direct (R451). -/
def execEfa (ra : Reg) (addr : Word) (rx : Reg) (s : State) : Outcome :=
  onOperand s 2 (·.directTriple addr rx) (extendedWith (addFloat 40) ra)

/-- FABS, floating point absolute value of register (R452). -/
def execFabs (ra rb : Reg) (s : State) : Outcome :=
  completing s 1 fun n => floatOf absFloat ra (n.pair rb) n

/-- SR, subtract, register (R453). -/
def execSr (ra rb : Reg) (s : State) : Outcome :=
  completing s 1 fun n => subWord ra (n.reg rb) n

/-- SBB, subtract, base relative (R454). -/
def execSbb (br : Reg) (du : Byte) (s : State) : Outcome :=
  onOperand s 1 (·.basedWord br du) (subWord 2)

/-- SBBX, subtract, base relative indexed (R455). -/
def execSbbx (br rx : Reg) (s : State) : Outcome :=
  onOperand s 1 (·.baseIndexedWord br rx) (subWord 2)

/-- SISP, subtract immediate short positive (R456). -/
def execSisp (ra : Reg) (n : Nat) (s : State) : Outcome :=
  completing s 1 (subWord ra (shortPositive n))

/-- S, subtract, direct (R457). -/
def execS (ra : Reg) (addr : Word) (rx : Reg) (s : State) : Outcome :=
  onOperand s 2 (·.directWord addr rx) (subWord ra)

/-- SIM, subtract immediate (R458). -/
def execSim (ra : Reg) (data : Word) (s : State) : Outcome :=
  completing s 2 (subWord ra data)

/-- DECM, decrement memory by a positive integer (R459). -/
def execDecm (n : Nat) (addr : Word) (rx : Reg) (s : State) : Outcome :=
  onOperand s 2 (·.directCell addr rx) (updateMemory subFixed n)

/-- NEG, single precision negate register (R460). -/
def execNeg (ra rb : Reg) (s : State) : Outcome :=
  completing s 1 fun n => putSigned ra (negFixed (n.reg rb)) n

/-- DNEG, double precision negate register (R461). -/
def execDneg (ra rb : Reg) (s : State) : Outcome :=
  completing s 1 fun n => putSignedPair ra (negFixed (n.pair rb)) n

/-- DSR, double subtract, register (R462). -/
def execDsr (ra rb : Reg) (s : State) : Outcome :=
  completing s 1 fun n => subPair ra (n.pair rb) n

/-- DS, double subtract, direct (R463). -/
def execDs (ra : Reg) (addr : Word) (rx : Reg) (s : State) : Outcome :=
  onOperand s 2 (·.directDouble addr rx) (subPair ra)

/-- FSR, floating subtract, register (R464). -/
def execFsr (ra rb : Reg) (s : State) : Outcome :=
  completing s 1 fun n => floatWith (subFloat 24) ra (n.pair rb) n

/-- FSB, floating subtract, base relative (R465). -/
def execFsb (br : Reg) (du : Byte) (s : State) : Outcome :=
  onOperand s 1 (·.basedDouble br du) (floatWith (subFloat 24) 0)

/-- FSBX, floating subtract, base relative indexed (R466). -/
def execFsbx (br rx : Reg) (s : State) : Outcome :=
  onOperand s 1 (·.baseIndexedDouble br rx) (floatWith (subFloat 24) 0)

/-- FS, floating subtract, direct (R467). -/
def execFs (ra : Reg) (addr : Word) (rx : Reg) (s : State) : Outcome :=
  onOperand s 2 (·.directDouble addr rx) (floatWith (subFloat 24) ra)

/-- EFSR, extended floating subtract, register (R468). -/
def execEfsr (ra rb : Reg) (s : State) : Outcome :=
  completing s 1 fun n => extendedWith (subFloat 40) ra (n.triple rb) n

/-- EFS, extended floating subtract, direct (R469). -/
def execEfs (ra : Reg) (addr : Word) (rx : Reg) (s : State) : Outcome :=
  onOperand s 2 (·.directTriple addr rx) (extendedWith (subFloat 40) ra)

/-- FNEG, floating point negate register (R470). -/
def execFneg (ra rb : Reg) (s : State) : Outcome :=
  completing s 1 fun n => floatOf negFloat ra (n.pair rb) n

end Sys2Proof.Machine
end

