-- ==== Sys2Proof/Machine/Bit.lean ====
section
/-! DEFINITION. The bit instructions (41_bit.md). -/

namespace Sys2Proof.Machine

/-- CS set from bit `n` of a word (41_bit.md R290). -/
def testBit (n : Nibble) (v : Word) (s : State) : State := s.setCs (csBit v n)

/-- The bit number in the low four bits of a register (41_bit.md R301). -/
def bitNumber (v : Word) : Nibble := v.extractLsb' 0 4

/-- SB, set bit, memory direct (R291). -/
def execSb (n : Nibble) (addr : Word) (rx : Reg) (s : State) : Outcome :=
  onOperand s 2 (·.directCell addr rx) (storeBack fun _ v => withBit v n)

/-- SBR, set bit, register (R292). -/
def execSbr (n : Nibble) (rb : Reg) (s : State) : Outcome :=
  completing s 1 fun m => m.setReg rb (withBit (m.reg rb) n)

/-- SBI, set bit, memory indirect (R293). -/
def execSbi (n : Nibble) (addr : Word) (rx : Reg) (s : State) : Outcome :=
  onOperand s 2 (·.indirectCell addr rx) (storeBack fun _ v => withBit v n)

/-- RB, reset bit, memory direct (R294). -/
def execRb (n : Nibble) (addr : Word) (rx : Reg) (s : State) : Outcome :=
  onOperand s 2 (·.directCell addr rx) (storeBack fun _ v => withoutBit v n)

/-- RBR, reset bit, register (R295). -/
def execRbr (n : Nibble) (rb : Reg) (s : State) : Outcome :=
  completing s 1 fun m => m.setReg rb (withoutBit (m.reg rb) n)

/-- RBI, reset bit, memory indirect (R296). -/
def execRbi (n : Nibble) (addr : Word) (rx : Reg) (s : State) : Outcome :=
  onOperand s 2 (·.indirectCell addr rx) (storeBack fun _ v => withoutBit v n)

/-- TB, test bit, memory direct (R297). -/
def execTb (n : Nibble) (addr : Word) (rx : Reg) (s : State) : Outcome :=
  onOperand s 2 (·.directWord addr rx) (testBit n)

/-- TBR, test bit, register (R298). -/
def execTbr (n : Nibble) (rb : Reg) (s : State) : Outcome :=
  completing s 1 fun m => testBit n (m.reg rb) m

/-- TBI, test bit, memory indirect (R299). -/
def execTbi (n : Nibble) (addr : Word) (rx : Reg) (s : State) : Outcome :=
  onOperand s 2 (·.indirectWord addr rx) (testBit n)

/-- TSB after its read: the word stored back with the bit set, then CS from the word read (41_bit.md R300). The write
does not wait for the bus, so that no DMA access falls between the two (20_memory.md R153). -/
def testAndSet (n : Nibble) (cell : Word × Word) (s : State) : State :=
  afterWrites (s.writeWord (s.operandRef cell.1) s.ps (withBit cell.2 n)) (testBit n cell.2)

/-- TSB, test and set bit (R300). -/
def execTsb (n : Nibble) (addr : Word) (rx : Reg) (s : State) : Outcome :=
  onOperand s 2 (·.directCell addr rx) (testAndSet n)

/-- SVBR, set variable bit in register (R301). -/
def execSvbr (ra rb : Reg) (s : State) : Outcome :=
  completing s 1 fun n => n.setReg rb (withBit (n.reg rb) (bitNumber (n.reg ra)))

/-- RVBR, reset variable bit in register (R302). -/
def execRvbr (ra rb : Reg) (s : State) : Outcome :=
  completing s 1 fun n => n.setReg rb (withoutBit (n.reg rb) (bitNumber (n.reg ra)))

/-- TVBR, test variable bit in register (R303). -/
def execTvbr (ra rb : Reg) (s : State) : Outcome :=
  completing s 1 fun n => testBit (bitNumber (n.reg ra)) (n.reg rb) n

end Sys2Proof.Machine
end

