-- ==== Sys2Proof/Machine/Compare.lean ====
section
/-! DEFINITION. The compare instructions, no operation and break point (49_compare_nop_bpt.md). -/

namespace Sys2Proof.Machine

/-- A word compared with the accumulator (49_compare_nop_bpt.md section 1). -/
def compareWord (acc : Reg) (d : Word) (s : State) : State := s.setCs (csCompare (s.reg acc).toInt d.toInt)

/-- A register compared with two limits (49_compare_nop_bpt.md R568). -/
def compareLimits (ra : Reg) (d : Double) (s : State) : State :=
  s.setCs (csLimits (s.reg ra).toInt (d.extractLsb' 16 16).toInt (d.extractLsb' 0 16).toInt)

/-- A double compared with the accumulator pair (49_compare_nop_bpt.md section 3). -/
def comparePair (acc : Reg) (d : Double) (s : State) : State := s.setCs (csCompare (s.pair acc).toInt d.toInt)

/-- A floating point operand compared with the accumulator pair, the values exact; CS and the requests are open for
an operand that the standard does not allow (49_compare_nop_bpt.md section 4, 93_implementation_defined.md U4). -/
def compareFloat (acc : Reg) (d : Double) (s : State) : State :=
  if isLegalFloat (s.pair acc) && isLegalFloat d then
    s.setCs (csCompare (scaledValue (unpackFloat (s.pair acc))) (scaledValue (unpackFloat d)))
  else s.openStatus

/-- An extended floating point operand compared with the accumulator triple (49_compare_nop_bpt.md section 5,
93_implementation_defined.md U4). -/
def compareExtended (acc : Reg) (d : Triple) (s : State) : State :=
  if isLegalFloat (s.triple acc) && isLegalFloat d then
    s.setCs (csCompare (scaledValue (unpackExtended (s.triple acc))) (scaledValue (unpackExtended d)))
  else s.openStatus

/-- CR, compare, register (R561). -/
def execCr (ra rb : Reg) (s : State) : Outcome :=
  completing s 1 fun n => compareWord ra (n.reg rb) n

/-- CB, compare, base relative (R562). -/
def execCb (br : Reg) (du : Byte) (s : State) : Outcome :=
  onOperand s 1 (·.basedWord br du) (compareWord 2)

/-- CBX, compare, base relative indexed (R563). -/
def execCbx (br rx : Reg) (s : State) : Outcome :=
  onOperand s 1 (·.baseIndexedWord br rx) (compareWord 2)

/-- CISP, compare, immediate short positive (R564). -/
def execCisp (ra : Reg) (n : Nat) (s : State) : Outcome :=
  completing s 1 (compareWord ra (shortPositive n))

/-- CISN, compare, immediate short negative (R565). -/
def execCisn (ra : Reg) (n : Nat) (s : State) : Outcome :=
  completing s 1 (compareWord ra (shortNegative n))

/-- C, compare, direct (R566). -/
def execC (ra : Reg) (addr : Word) (rx : Reg) (s : State) : Outcome :=
  onOperand s 2 (·.directWord addr rx) (compareWord ra)

/-- CIM, compare, immediate (R567). -/
def execCim (ra : Reg) (data : Word) (s : State) : Outcome :=
  completing s 2 (compareWord ra data)

/-- CBL, compare between limits (R568). -/
def execCbl (ra : Reg) (addr : Word) (rx : Reg) (s : State) : Outcome :=
  onOperand s 2 (·.directDouble addr rx) (compareLimits ra)

/-- DCR, double precision compare, register (R569). -/
def execDcr (ra rb : Reg) (s : State) : Outcome :=
  completing s 1 fun n => comparePair ra (n.pair rb) n

/-- DC, double precision compare, direct (R570). -/
def execDc (ra : Reg) (addr : Word) (rx : Reg) (s : State) : Outcome :=
  onOperand s 2 (·.directDouble addr rx) (comparePair ra)

/-- FCR, floating point compare, register (R571). -/
def execFcr (ra rb : Reg) (s : State) : Outcome :=
  completing s 1 fun n => compareFloat ra (n.pair rb) n

/-- FCB, floating point compare, base relative (R572). -/
def execFcb (br : Reg) (du : Byte) (s : State) : Outcome :=
  onOperand s 1 (·.basedDouble br du) (compareFloat 0)

/-- FCBX, floating point compare, base relative indexed (R573). -/
def execFcbx (br rx : Reg) (s : State) : Outcome :=
  onOperand s 1 (·.baseIndexedDouble br rx) (compareFloat 0)

/-- FC, floating point compare, direct (R574). -/
def execFc (ra : Reg) (addr : Word) (rx : Reg) (s : State) : Outcome :=
  onOperand s 2 (·.directDouble addr rx) (compareFloat ra)

/-- EFCR, extended precision floating point compare, register (R575). -/
def execEfcr (ra rb : Reg) (s : State) : Outcome :=
  completing s 1 fun n => compareExtended ra (n.triple rb) n

/-- EFC, extended precision floating point compare, direct (R576). -/
def execEfc (ra : Reg) (addr : Word) (rx : Reg) (s : State) : Outcome :=
  onOperand s 2 (·.directTriple addr rx) (compareExtended ra)

/-- NOP, no operation (R577). -/
def execNop (s : State) : Outcome :=
  completing s 1 id

/-- BPT, break point (R578). The processor halts if a console is connected. -/
def execBpt (s : State) : Outcome :=
  completing s 1 fun n => { n with halted := n.halted || (n.cfg.hasConsole && n.console.connected) }

end Sys2Proof.Machine
end

