-- ==== Sys2Proof/Machine/IoCommands.lean ====
section
/-! DEFINITION. The input/output commands: which code is which command on a machine, and what each does
(40_input_output.md R221 to R274). -/

namespace Sys2Proof.Machine

/-- The output commands (40_input_output.md R225). -/
inductive OutCommand where
  /-- PO, programmed output to a port (R227). -/
  | po (code : Word)
  /-- SMK, set interrupt mask (R228). -/
  | smk
  /-- CLIR, clear interrupt request (R229). -/
  | clir
  /-- ENBL, enable interrupts (R230). -/
  | enbl
  /-- DSBL, disable interrupts (R231). -/
  | dsbl
  /-- RPI, reset pending interrupt (R232). -/
  | rpi
  /-- SPI, set pending interrupt register (R233). -/
  | spi
  /-- WSW, write status word (R234). -/
  | wsw
  /-- OD, output discretes (R241). -/
  | od
  /-- RNS, reset normal power up discrete (R242). -/
  | rns
  /-- CO, console output (R243). -/
  | co
  /-- CLC, clear console (R244). -/
  | clc
  /-- MPEN, memory protect enable (R245). -/
  | mpen
  /-- ESUR, enable start up ROM (R246). -/
  | esur
  /-- DSUR, disable start up ROM (R247). -/
  | dsur
  /-- DMAE, direct memory access enable (R248). -/
  | dmae
  /-- DMAD, direct memory access disable (R249). -/
  | dmad
  /-- TAS, timer A start (R250). -/
  | tas
  /-- TAH, timer A halt (R251). -/
  | tah
  /-- OTA, output timer A (R252). -/
  | ota
  /-- GO, trigger go indicator (R253). -/
  | go
  /-- TBS, timer B start (R254). -/
  | tbs
  /-- TBH, timer B halt (R255). -/
  | tbh
  /-- OTB, output timer B (R256). -/
  | otb
  /-- LMP, load memory protect RAM (R257). -/
  | lmp (word : BitVec 7)
  /-- WIPR, write instruction page register (R258). -/
  | wipr (group page : Nibble)
  /-- WOPR, write operand page register (R259). -/
  | wopr (group page : Nibble)
  /-- A spare output command that `IO_DEVICE` implements (R273). -/
  | spareOut (code : Word)
  deriving DecidableEq, Repr

/-- The input commands (40_input_output.md R225). -/
inductive InCommand where
  /-- PI, programmed input from a port (R235). -/
  | pi (code : Word)
  /-- RMK, read interrupt mask (R236). -/
  | rmk
  /-- RPIR, read pending interrupt register (R237). -/
  | rpir
  /-- RSW, read status word (R238). -/
  | rsw
  /-- RCFR, read and clear fault register (R239). -/
  | rcfr
  /-- RIC1, read input/output interrupt code, level 1 (R260). -/
  | ric1
  /-- RIC2, read input/output interrupt code, level 2 (R261). -/
  | ric2
  /-- RDOR, read discrete output register (R262). -/
  | rdor
  /-- RDI, read discrete input (R263). -/
  | rdi
  /-- TPIO, test programmed output (R264). -/
  | tpio
  /-- RMFS, read memory fault status (R265). -/
  | rmfs
  /-- CI, console input (R266). -/
  | ci
  /-- RCS, read console status (R267). -/
  | rcs
  /-- ITA, input timer A (R268). -/
  | ita
  /-- ITB, input timer B (R269). -/
  | itb
  /-- RMP, read memory protect RAM (R270). -/
  | rmp (word : BitVec 7)
  /-- RIPR, read instruction page register (R271). -/
  | ripr (group page : Nibble)
  /-- ROPR, read operand page register (R272). -/
  | ropr (group page : Nibble)
  /-- A spare input command that `IO_DEVICE` implements (R273). -/
  | spareIn (code : Word)
  deriving DecidableEq, Repr

/-- A command that exists only on some machines (40_input_output.md R240). -/
def onlyIf {α : Type} (b : Bool) (c : α) : Option α := if b then some c else none

/-- `IO_DEVICE` implements this programmed input/output or spare code (00_scope.md R12). -/
def answersCode (c : Config) (cmd : Word) : Bool := c.ioCodes.any fun r => r.holds cmd.toNat

/-- The page register group of a command exists (40_input_output.md R258). -/
def hasPageGroup (c : Config) (group : Nibble) : Bool := c.xmem && decide (group.toNat < c.groups)

/-- A code of the spare channel groups, the direction bit apart (40_input_output.md R222, R225). -/
def isSpare (cmd : Word) : Bool :=
  let code := cmd.toNat % 32768
  (0x0400 ≤ code && code ≤ 0x1FFF) || (0x3000 ≤ code && code ≤ 0x3FFF) || 0x5300 ≤ code

/-- The commands of a whole channel group: programmed output, spare outputs, the protect RAM and the page registers
(40_input_output.md R225). -/
def groupOutput (c : Config) (cmd : Word) : Option OutCommand :=
  if cmd.toNat ≤ 0x03FF then onlyIf (answersCode c cmd) (.po cmd)
  else if isSpare cmd then onlyIf (answersCode c cmd) (.spareOut cmd)
  else if cmd.extractLsb' 7 9 = 0x50#8 ++ 0#1 then onlyIf c.hasMprot (.lmp (cmd.extractLsb' 0 7))
  else if cmd.extractLsb' 8 8 = 0x51#8 then
    onlyIf (hasPageGroup c (cmd.extractLsb' 4 4)) (.wipr (cmd.extractLsb' 4 4) (cmd.extractLsb' 0 4))
  else if cmd.extractLsb' 8 8 = 0x52#8 then
    onlyIf (hasPageGroup c (cmd.extractLsb' 4 4)) (.wopr (cmd.extractLsb' 4 4) (cmd.extractLsb' 0 4))
  else none

/-- The output command of a code with bit 0 zero, none if the machine does not implement it
(40_input_output.md R225, R226). All sixteen bits take part (R223). -/
def outCommand (c : Config) (cmd : Word) : Option OutCommand :=
  match cmd.toNat with
  | 0x2000 => some .smk
  | 0x2001 => some .clir
  | 0x2002 => some .enbl
  | 0x2003 => some .dsbl
  | 0x2004 => some .rpi
  | 0x2005 => some .spi
  | 0x200E => some .wsw
  | 0x2008 => onlyIf c.hasDiscreteOut .od
  | 0x200A => onlyIf c.hasNpu .rns
  | 0x4000 => onlyIf c.hasConsole .co
  | 0x4001 => onlyIf c.hasConsole .clc
  | 0x4003 => onlyIf c.hasMprot .mpen
  | 0x4004 => onlyIf c.hasSurom .esur
  | 0x4005 => onlyIf c.hasSurom .dsur
  | 0x4006 => onlyIf c.hasDma .dmae
  | 0x4007 => onlyIf c.hasDma .dmad
  | 0x4008 => onlyIf c.hasTimers .tas
  | 0x4009 => onlyIf c.hasTimers .tah
  | 0x400A => onlyIf c.hasTimers .ota
  | 0x400B => onlyIf c.hasGo .go
  | 0x400C => onlyIf c.hasTimers .tbs
  | 0x400D => onlyIf c.hasTimers .tbh
  | 0x400E => onlyIf c.hasTimers .otb
  | _ => groupOutput c cmd

/-- The commands of a whole channel group: programmed input, spare inputs, the protect RAM and the page registers
(40_input_output.md R225). -/
def groupInput (c : Config) (cmd : Word) : Option InCommand :=
  if cmd.toNat % 32768 ≤ 0x03FF then onlyIf (answersCode c cmd) (.pi cmd)
  else if isSpare cmd then onlyIf (answersCode c cmd) (.spareIn cmd)
  else if cmd.extractLsb' 7 9 = 0xD0#8 ++ 0#1 then onlyIf c.hasMprot (.rmp (cmd.extractLsb' 0 7))
  else if cmd.extractLsb' 8 8 = 0xD1#8 then
    onlyIf (hasPageGroup c (cmd.extractLsb' 4 4)) (.ripr (cmd.extractLsb' 4 4) (cmd.extractLsb' 0 4))
  else if cmd.extractLsb' 8 8 = 0xD2#8 then
    onlyIf (hasPageGroup c (cmd.extractLsb' 4 4)) (.ropr (cmd.extractLsb' 4 4) (cmd.extractLsb' 0 4))
  else none

/-- The input command of a code with bit 0 one, none if the machine does not implement it
(40_input_output.md R225, R226). -/
def inCommand (c : Config) (cmd : Word) : Option InCommand :=
  match cmd.toNat with
  | 0xA000 => some .rmk
  | 0xA004 => some .rpir
  | 0xA00E => some .rsw
  | 0xA00F => some .rcfr
  | 0xA001 => onlyIf c.hasIoic .ric1
  | 0xA002 => onlyIf c.hasIoic .ric2
  | 0xA008 => onlyIf c.hasDiscreteOut .rdor
  | 0xA009 => onlyIf c.hasDiscreteIn .rdi
  | 0xA00B => onlyIf c.hasTpio .tpio
  | 0xA00D => onlyIf c.hasMfsr .rmfs
  | 0xC000 => onlyIf c.hasConsole .ci
  | 0xC001 => onlyIf c.hasConsole .rcs
  | 0xC00A => onlyIf c.hasTimers .ita
  | 0xC00E => onlyIf c.hasTimers .itb
  | _ => groupInput c cmd

/-- The bits of a page register that exist: the reserved bits 5 to 7 never, the lock only with the lock feature
(10_state.md R75, 40_input_output.md R258). -/
def pageMask (c : Config) : Word := if c.locks then 0xF8FF#16 else 0x08FF#16

/-- A page register of a file of sets (10_state.md R74). -/
def pageOf (file : Vector PageSet 16) (group page : Nibble) : Word := file[group.toNat][page.toNat]

/-- A page register of a file of sets written (10_state.md R74). -/
def setPageOf (file : Vector PageSet 16) (group page : Nibble) (v : Word) : Vector PageSet 16 :=
  file.set group.toNat (file[group.toNat].set page.toNat v)

/-- RPI: one pending interrupt cleared, and the fault register with interrupt 1 (40_input_output.md R232). -/
def State.resetPending (s : State) (n : Nibble) : State :=
  { s with pir := s.pir &&& ~~~bitMask n.toNat, pihold := s.pihold &&& ~~~bitMask n.toNat,
           ft := if n = 1 then 0#16 else s.ft }

/-- What an output command does with its data word (40_input_output.md R227 to R259, R273). -/
def State.runOutput (s : State) (c : OutCommand) (v : Word) : State :=
  match c with
  | .po code =>
    { s with io := { s.io with portOut := s.io.portOut ++ [(code, v)],
                               pob := if s.cfg.hasTpio then v else s.io.pob } }
  | .smk => { s with mkr := v }
  | .clir => { s with pir := 0#16, ft := 0#16, pihold := 0#16 }
  | .enbl => { s with endly := s.endly || !s.inten }
  | .dsbl => { s with inten := false, endly := false }
  | .rpi => s.resetPending (v.extractLsb' 0 4)
  | .spi => { s with pir := s.pir ||| v, pihold := s.pihold ||| v }
  | .wsw => s.loadSw v
  | .od => { s with io := { s.io with dout := v } }
  | .rns => { s with io := { s.io with npu := false } }
  | .co =>
    if s.console.connected then
      { s with console := { s.console with output := s.console.output ++ [upperByte v, lowerByte v] } }
    else s
  | .clc => { s with console := { s.console with output := [], input := [], status := 0#16 } }
  | .mpen => { s with mpen := true }
  | .esur => { s with suen := true }
  | .dsur => { s with suen := false }
  | .dmae => { s with io := { s.io with dmaen := true } }
  | .dmad => { s with io := { s.io with dmaen := false } }
  | .tas => { s with timers := { s.timers with taRun := true } }
  | .tah => { s with timers := { s.timers with taRun := false } }
  | .ota => { s with timers := { s.timers with ta := v, taRun := true } }
  | .go => { s with io := { s.io with goHigh := true, goCount := s.cfg.goPeriod } }
  | .tbs => { s with timers := { s.timers with tbRun := true } }
  | .tbh => { s with timers := { s.timers with tbRun := false } }
  | .otb => { s with timers := { s.timers with tb := v, tbRun := true } }
  | .lmp word => { s with mpr := s.mpr.set word.toNat v }
  | .wipr group page => { s with pri := setPageOf s.pri group page (v &&& pageMask s.cfg) }
  | .wopr group page => { s with pro := setPageOf s.pro group page (v &&& pageMask s.cfg) }
  | .spareOut code => { s with io := { s.io with portOut := s.io.portOut ++ [(code, v)] } }

/-- The word a port has ready for an input command, and what stays ready; a free value if none is (log 15). -/
def State.takePortWord (s : State) (code : Word) : Word × State :=
  match s.io.portIn.find? fun p => p.1 == code with
  | some p => (p.2, { s with io := { s.io with portIn := s.io.portIn.erase p } })
  | none => s.draw

/-- CI: the next two bytes of an attached console, a free value if there are not two (40_input_output.md R266,
93_implementation_defined.md U6; log 14). -/
def State.takeConsoleWord (s : State) : Word × State :=
  match s.console.connected, s.console.input with
  | true, b1 :: b2 :: rest => (b1 ++ b2, { s with console := { s.console with input := rest } })
  | _, _ => s.draw

/-- The word that an input command delivers, and what else it does (40_input_output.md R235 to R239, R260 to
R273). -/
def State.runInput (s : State) (c : InCommand) : Word × State :=
  match c with
  | .pi code => s.takePortWord code
  | .rmk => (s.mkr, s)
  | .rpir => (s.pir, s)
  | .rsw => (s.sw, s)
  | .rcfr => (s.ft, { s with ft := 0#16, pir := s.pir &&& ~~~bitMask 1, pihold := s.pihold &&& ~~~bitMask 1 })
  | .ric1 => (s.io.ioic1, { s with io := { s.io with frz1 := false } })
  | .ric2 => (s.io.ioic2, { s with io := { s.io with frz2 := false } })
  | .rdor => (s.io.dout, s)
  | .rdi => (s.io.din, s)
  | .tpio => (s.io.pob, s)
  | .rmfs => (s.mfsr, s)
  | .ci => s.takeConsoleWord
  | .rcs => (s.console.status, s)
  | .ita => (s.timers.ta, s)
  | .itb => (s.timers.tb, s)
  | .rmp word => (s.mpr[word.toNat], s)
  | .ripr group page => (pageOf s.pri group page &&& pageMask s.cfg, s)
  | .ropr group page => (pageOf s.pro group page &&& pageMask s.cfg, s)
  | .spareIn code => s.takePortWord code

/-- The abort of an unimplemented, reserved or undefined command (40_input_output.md R226). -/
def illegalCommand : Abort := ⟨.illegalCommand, none⟩

/-- `do_output(cmd, v)` (40_input_output.md R225). -/
def State.doOutput (s : State) (cmd v : Word) : Except Abort State :=
  match outCommand s.cfg cmd with
  | some c => .ok (s.runOutput c v)
  | none => .error illegalCommand

/-- `do_input(cmd)` (40_input_output.md R225). -/
def State.doInput (s : State) (cmd : Word) : Except Abort (Word × State) :=
  match inCommand s.cfg cmd with
  | some c => .ok (s.runInput c)
  | none => .error illegalCommand

end Sys2Proof.Machine
end

