-- ==== Sys2Proof/Machine/Jump.lean ====
section
/-! DEFINITION. The jump, branch, subroutine and status load instructions (43_jump_branch.md).
No target is examined (R340, R358). -/

namespace Sys2Proof.Machine

/-- IC set (43_jump_branch.md R340). -/
def State.jumpTo (s : State) (target : Word) : State := { s with ic := target }

/-- IC set if the condition holds; otherwise IC is already at the next instruction (43_jump_branch.md R340). -/
def State.jumpIf (s : State) (taken : Bool) (target : Word) : State := if taken then s.jumpTo target else s

/-- `jc_taken(C)` (43_jump_branch.md R341). -/
def State.jumpTaken (s : State) (c : Nibble) : Bool := c == 7#4 || c == 15#4 || (c &&& s.cs) != 0#4

/-- A branch relative to its own address, taken if CS has one of the bits of a mask (43_jump_branch.md R340 (d),
(e)). -/
def branchOn (s : State) (mask : Nibble) (d : Byte) : Outcome :=
  completing s 1 fun n => n.jumpIf ((mask &&& s.cs) != 0#4) (s.relative d)

/-- The abort of a privileged instruction (60_exceptions.md R650). -/
def privilegedAbort : Abort := ⟨.privileged, none⟩

/-- A privileged instruction of two words: with PS not 0 it records fault 10 and does nothing
(60_exceptions.md R650, R602). -/
def privileged (s : State) (k : Outcome) : Outcome :=
  if s.ps = 0 then k else .next ((s.advance 2).raiseFault privilegedAbort)

/-- The three words of a context read (43_jump_branch.md R354). -/
def State.readContext (s : State) (da : Word) : Reading Context :=
  (s.read da).andThen fun m s1 => (s1.read (da + 1)).andThen fun w s2 => (s2.read (da + 2)).andThen fun c s3 =>
    (.ok ⟨m, w, c⟩, s3)

/-- The return from an interrupt: a context loaded (43_jump_branch.md R354, R357; 60_exceptions.md R630). -/
def returnTo (c : Context) (s : State) : State := s.loadContext c

/-- JC, jump on condition, direct (R341). -/
def execJc (c : Nibble) (addr : Word) (rx : Reg) (s : State) : Outcome :=
  completing s 2 fun n => n.jumpIf (s.jumpTaken c) (s.direct addr rx)

/-- JCI, jump on condition, indirect (R342). The pointer is read whether or not the jump is taken. -/
def execJci (c : Nibble) (addr : Word) (rx : Reg) (s : State) : Outcome :=
  onOperand s 2 (·.indirect addr rx) fun da n => n.jumpIf (s.jumpTaken c) da

/-- JS, jump to subroutine (R343). -/
def execJs (ra : Reg) (addr : Word) (rx : Reg) (s : State) : Outcome :=
  completing s 2 fun n => (n.setReg ra n.ic).jumpTo (s.direct addr rx)

/-- SOJ after its address is derived: the register down by one, CS from it, and the jump if it is not zero
(43_jump_branch.md R344). -/
def subtractAndJump (ra : Reg) (da : Word) (s : State) : State :=
  let v := s.reg ra - 1
  ((s.setReg ra v).setCs (csSign v)).jumpIf (v != 0) da

/-- SOJ, subtract one and jump (R344). -/
def execSoj (ra : Reg) (addr : Word) (rx : Reg) (s : State) : Outcome :=
  completing s 2 fun n => subtractAndJump ra (n.direct addr rx) n

/-- BR, branch unconditionally (R345). -/
def execBr (d : Byte) (s : State) : Outcome :=
  completing s 1 fun n => n.jumpTo (s.relative d)

/-- BEZ, branch if equal to (zero) (R346). -/
def execBez (d : Byte) (s : State) : Outcome :=
  branchOn s 0b0010#4 d

/-- BLT, branch if less than (zero) (R347). -/
def execBlt (d : Byte) (s : State) : Outcome :=
  branchOn s 0b0001#4 d

/-- BEX, branch to executive (R348). The interrupt sequence of interrupt 5, inside the instruction; no other interrupt
is taken between BEX and the first instruction of the executive (log 29). A BEX whose sequence faults is aborted and
holds no boundary (60_exceptions.md R629). -/
def execBex (n : Nibble) (s : State) : Outcome :=
  completing s 1 fun m => afterWrites (m.interruptSequence 5 n) State.holdBoundary

/-- BLE, branch if less than or equal to (zero) (R349). -/
def execBle (d : Byte) (s : State) : Outcome :=
  branchOn s 0b0011#4 d

/-- BGT, branch if greater than (zero) (R350). -/
def execBgt (d : Byte) (s : State) : Outcome :=
  branchOn s 0b0100#4 d

/-- BNZ, branch if not equal to (zero) (R351). -/
def execBnz (d : Byte) (s : State) : Outcome :=
  branchOn s 0b0101#4 d

/-- BGE, branch if greater than or equal to (zero) (R352). -/
def execBge (d : Byte) (s : State) : Outcome :=
  branchOn s 0b0110#4 d

/-- LSTI, load status, indirect (R353). -/
def execLsti (addr : Word) (rx : Reg) (s : State) : Outcome :=
  privileged s (onOperand s 2 (fun n => (n.indirect addr rx).andThen fun da n1 => n1.readContext da) returnTo)

/-- LST, load status (R354). -/
def execLst (addr : Word) (rx : Reg) (s : State) : Outcome :=
  privileged s (onOperand s 2 (fun n => n.readContext (n.direct addr rx)) returnTo)

/-- SJS after its address is derived: the return address stored below the stack, then the register and IC
(43_jump_branch.md R355). -/
def stackAndJump (ra : Reg) (da : Word) (s : State) : State :=
  s.writeThen [(s.reg ra - 1, s.ic)] fun t => (t.setReg ra (s.reg ra - 1)).jumpTo da

/-- SJS, stack IC and jump to subroutine (R355). -/
def execSjs (ra : Reg) (addr : Word) (rx : Reg) (s : State) : Outcome :=
  completing s 2 fun n => stackAndJump ra (n.direct addr rx) n

/-- URS, unstack IC and return from subroutine (R356). -/
def execUrs (ra : Reg) (s : State) : Outcome :=
  onOperand s 1 (fun n => n.read (n.reg ra)) fun t n => (n.setReg ra (n.reg ra + 1)).jumpTo t

end Sys2Proof.Machine
end

