-- ==== Sys2Proof/Machine/InputOutput.lean ====
section
/-! DEFINITION. The input/output instructions (40_input_output.md R224, R275). -/

namespace Sys2Proof.Machine

/-- XIO with PS = 0, on the state past the instruction: the command is decoded, then performed with register `ra`
(40_input_output.md R224). -/
def executeCommand (ra : Reg) (cmd : Word) (s : State) : Outcome :=
  if cmd.msb then
    match s.doInput cmd with
    | .ok p => .next (p.2.setReg ra p.1)
    | .error a => .next (s.raiseFault a)
  else
    match s.doOutput cmd (s.reg ra) with
    | .ok t => .next t
    | .error a => .next (s.raiseFault a)

/-- XIO, execute input/output (R224). -/
def execXio (ra : Reg) (cmd : Word) (rx : Reg) (s : State) : Outcome :=
  privileged s (executeCommand ra (s.direct cmd rx) (s.advance 2))

/-- One command of VIO, with its data word at `la`: the command is decoded before the data reference is made. A command
that faults, or whose reference does, has no effect (40_input_output.md R275, R276; 60_exceptions.md R602; log 24). -/
def vectorCommand (cmd la : Word) (s : State) : State × Option Abort :=
  if cmd.msb then
    match s.doInput cmd with
    | .error a => (s, some a)
    | .ok p =>
      match p.2.writeAll p.2.as p.2.ps [(la, p.1)] with
      | (t, none) => (t, none)
      | (_, some a) => (s.awaitBus, some a)
  else
    match outCommand s.cfg cmd with
    | none => (s, some illegalCommand)
    | some c =>
      match s.read la with
      | (.error a, t) => (t, some a)
      | (.ok v, t) => (t.runOutput c v, none)

/-- The selected commands of VIO, in ascending bit number, each with the next data word; the first that faults ends
them (40_input_output.md R275, R276). -/
def vectorCommands (base step sel la : Word) (ns : List Nat) (s : State) : State × Option Abort :=
  match ns with
  | [] => (s, none)
  | n :: rest =>
    if (sel &&& bitMask n) ≠ 0 then
      match vectorCommand (base + BitVec.ofNat 16 n * step) la s with
      | (t, some a) => (t, some a)
      | (t, none) => vectorCommands base step sel (la + 1) rest t
    else vectorCommands base step sel la rest s

/-- VIO after its table is read: the command and the vector select (40_input_output.md R275). -/
def runVector (ra : Reg) (da : Word) (table : Double) (s : State) : State :=
  afterWrites
    (vectorCommands (table.extractLsb' 16 16) (s.reg ra) (table.extractLsb' 0 16) (da + 2) (List.range 16) s) id

/-- VIO, vectored input/output (R275). -/
def execVio (ra : Reg) (addr : Word) (rx : Reg) (s : State) : Outcome :=
  privileged s (onOperand s 2 (·.directDouble addr rx) fun table n => runVector ra (n.direct addr rx) table n)

end Sys2Proof.Machine
end

