-- ==== Sys2Proof/Machine/Load.lean ====
section
/-! DEFINITION. The load instructions (44_load.md). -/

namespace Sys2Proof.Machine

/-- A word loaded and CS set from it (44_load.md R370). -/
def loadWord (ra : Reg) (d : Word) (s : State) : State := (s.setReg ra d).setCs (csSign d)

/-- A double loaded and CS set from it (44_load.md section 2). -/
def loadPair (ra : Reg) (d : Double) (s : State) : State := (s.setPair ra d).setCs (csSign d)

/-- Three words loaded and CS set from them (44_load.md R385). -/
def loadTriple (ra : Reg) (d : Triple) (s : State) : State := (s.setTriple ra d).setCs (csSign d)

/-- The upper byte of a word loaded into the lower byte of a register, CS set from the register
(44_load.md R392). -/
def loadUpperByte (ra : Reg) (d : Word) (s : State) : State :=
  loadWord ra (withLowerByte (s.reg ra) (upperByte d)) s

/-- The lower byte of a word loaded into the lower byte of a register, CS set from the register
(44_load.md R394). -/
def loadLowerByte (ra : Reg) (d : Word) (s : State) : State :=
  loadWord ra (withLowerByte (s.reg ra) (lowerByte d)) s

/-- Words written to registers, in order. -/
def setRegs (rs : List (Reg × Word)) (s : State) : State :=
  match rs with
  | [] => s
  | (r, v) :: rest => setRegs rest (s.setReg r v)

/-- The registers 0 to n (44_load.md R384, 45_store.md R415). -/
def regsTo (n : Nibble) : List Reg := (List.range (n.toNat + 1)).map fun i => BitVec.ofNat 4 i

/-- The registers `ra` to `rb`, going from 15 on to 0 where `ra` is above `rb`
(44_load.md R396, 45_store.md R426). -/
def regsFromTo (ra rb : Reg) : List Reg := (List.range ((rb - ra).toNat + 1)).map fun i => ra + BitVec.ofNat 4 i

/-- LR, load, register (R371). -/
def execLr (ra rb : Reg) (s : State) : Outcome :=
  completing s 1 fun n => loadWord ra (n.reg rb) n

/-- LB, load, base relative (R372). -/
def execLb (br : Reg) (du : Byte) (s : State) : Outcome :=
  onOperand s 1 (·.basedWord br du) (loadWord 2)

/-- LBX, load, base relative indexed (R373). -/
def execLbx (br rx : Reg) (s : State) : Outcome :=
  onOperand s 1 (·.baseIndexedWord br rx) (loadWord 2)

/-- LISP, load immediate short positive (R374). -/
def execLisp (ra : Reg) (n : Nat) (s : State) : Outcome :=
  completing s 1 (loadWord ra (shortPositive n))

/-- LISN, load immediate short negative (R375). -/
def execLisn (ra : Reg) (n : Nat) (s : State) : Outcome :=
  completing s 1 (loadWord ra (shortNegative n))

/-- L, load, direct (R376). -/
def execL (ra : Reg) (addr : Word) (rx : Reg) (s : State) : Outcome :=
  onOperand s 2 (·.directWord addr rx) (loadWord ra)

/-- LIM, load, immediate long (R377). -/
def execLim (ra : Reg) (data : Word) (rx : Reg) (s : State) : Outcome :=
  completing s 2 fun n => loadWord ra (n.direct data rx) n

/-- LI, load, indirect (R378). -/
def execLi (ra : Reg) (addr : Word) (rx : Reg) (s : State) : Outcome :=
  onOperand s 2 (·.indirectWord addr rx) (loadWord ra)

/-- DLR, double load, register (R379). -/
def execDlr (ra rb : Reg) (s : State) : Outcome :=
  completing s 1 fun n => loadPair ra (n.pair rb) n

/-- DLB, double load, base relative (R380). -/
def execDlb (br : Reg) (du : Byte) (s : State) : Outcome :=
  onOperand s 1 (·.basedDouble br du) (loadPair 0)

/-- DLBX, double load, base relative indexed (R381). -/
def execDlbx (br rx : Reg) (s : State) : Outcome :=
  onOperand s 1 (·.baseIndexedDouble br rx) (loadPair 0)

/-- DL, double load, direct (R382). -/
def execDl (ra : Reg) (addr : Word) (rx : Reg) (s : State) : Outcome :=
  onOperand s 2 (·.directDouble addr rx) (loadPair ra)

/-- DLI, double load, indirect (R383). -/
def execDli (ra : Reg) (addr : Word) (rx : Reg) (s : State) : Outcome :=
  onOperand s 2 (·.indirectDouble addr rx) (loadPair ra)

/-- LM, load multiple registers (R384). -/
def execLm (n : Nibble) (addr : Word) (rx : Reg) (s : State) : Outcome :=
  onOperand s 2 (fun m => m.readMany (m.direct addr rx) (n.toNat + 1)) fun ws => setRegs ((regsTo n).zip ws)

/-- EFL, extended precision floating point load (R385). -/
def execEfl (ra : Reg) (addr : Word) (rx : Reg) (s : State) : Outcome :=
  onOperand s 2 (·.directTriple addr rx) (loadTriple ra)

/-- LUB, load from upper byte, direct (R392). -/
def execLub (ra : Reg) (addr : Word) (rx : Reg) (s : State) : Outcome :=
  onOperand s 2 (·.directWord addr rx) (loadUpperByte ra)

/-- LUBI, load from upper byte, indirect (R393). -/
def execLubi (ra : Reg) (addr : Word) (rx : Reg) (s : State) : Outcome :=
  onOperand s 2 (·.indirectWord addr rx) (loadUpperByte ra)

/-- LLB, load from lower byte, direct (R394). -/
def execLlb (ra : Reg) (addr : Word) (rx : Reg) (s : State) : Outcome :=
  onOperand s 2 (·.directWord addr rx) (loadLowerByte ra)

/-- LLBI, load from lower byte, indirect (R395). -/
def execLlbi (ra : Reg) (addr : Word) (rx : Reg) (s : State) : Outcome :=
  onOperand s 2 (·.indirectWord addr rx) (loadLowerByte ra)

/-- POPM, pop multiple registers off the stack (R396). One word is read for every register of the list, R15's is
discarded, and R15 is moved past them all. -/
def execPopm (ra rb : Reg) (s : State) : Outcome :=
  onOperand s 1 (fun n => n.readMany (n.reg 15) (regsFromTo ra rb).length) fun ws n =>
    (setRegs (((regsFromTo ra rb).zip ws).filter fun p => p.1 != 15) n).setReg 15
      (n.reg 15 + BitVec.ofNat 16 (regsFromTo ra rb).length)

end Sys2Proof.Machine
end

