-- ==== Sys2Proof/Machine/Logical.lean ====
section
/-! DEFINITION. The logical, conversion and exchange instructions (48_logical_convert_exchange.md). -/

namespace Sys2Proof.Machine

/-- A logical result in the accumulator, and CS (48_logical_convert_exchange.md R530). -/
def logicalWord (op : Word → Word → Word) (acc : Reg) (d : Word) (s : State) : State :=
  let r := op (s.reg acc) d
  (s.setReg acc r).setCs (csSign r)

/-- Inclusive OR (48_logical_convert_exchange.md R530). -/
def orWord (a d : Word) : Word := a ||| d

/-- AND (48_logical_convert_exchange.md R530). -/
def andWord (a d : Word) : Word := a &&& d

/-- Exclusive OR (48_logical_convert_exchange.md R530). -/
def xorWord (a d : Word) : Word := a ^^^ d

/-- NAND (48_logical_convert_exchange.md R530). -/
def nandWord (a d : Word) : Word := ~~~(a &&& d)

/-- ORR, OR, register (R531). -/
def execOrr (ra rb : Reg) (s : State) : Outcome :=
  completing s 1 fun n => logicalWord orWord ra (n.reg rb) n

/-- ORB, OR, base relative (R532). -/
def execOrb (br : Reg) (du : Byte) (s : State) : Outcome :=
  onOperand s 1 (·.basedWord br du) (logicalWord orWord 2)

/-- ORBX, OR, base relative indexed (R533). -/
def execOrbx (br rx : Reg) (s : State) : Outcome :=
  onOperand s 1 (·.baseIndexedWord br rx) (logicalWord orWord 2)

/-- OR, OR, direct (R534). -/
def execOr (ra : Reg) (addr : Word) (rx : Reg) (s : State) : Outcome :=
  onOperand s 2 (·.directWord addr rx) (logicalWord orWord ra)

/-- ORIM, OR, immediate (R535). -/
def execOrim (ra : Reg) (data : Word) (s : State) : Outcome :=
  completing s 2 (logicalWord orWord ra data)

/-- ANDR, AND, register (R536). -/
def execAndr (ra rb : Reg) (s : State) : Outcome :=
  completing s 1 fun n => logicalWord andWord ra (n.reg rb) n

/-- ANDB, AND, base relative (R537). -/
def execAndb (br : Reg) (du : Byte) (s : State) : Outcome :=
  onOperand s 1 (·.basedWord br du) (logicalWord andWord 2)

/-- ANDX, AND, base relative indexed (R538). -/
def execAndx (br rx : Reg) (s : State) : Outcome :=
  onOperand s 1 (·.baseIndexedWord br rx) (logicalWord andWord 2)

/-- AND, AND, direct (R539). -/
def execAnd (ra : Reg) (addr : Word) (rx : Reg) (s : State) : Outcome :=
  onOperand s 2 (·.directWord addr rx) (logicalWord andWord ra)

/-- ANDM, AND, immediate (R540). -/
def execAndm (ra : Reg) (data : Word) (s : State) : Outcome :=
  completing s 2 (logicalWord andWord ra data)

/-- XORR, exclusive OR, register (R541). -/
def execXorr (ra rb : Reg) (s : State) : Outcome :=
  completing s 1 fun n => logicalWord xorWord ra (n.reg rb) n

/-- XOR, exclusive OR, direct (R542). -/
def execXor (ra : Reg) (addr : Word) (rx : Reg) (s : State) : Outcome :=
  onOperand s 2 (·.directWord addr rx) (logicalWord xorWord ra)

/-- XORM, exclusive OR, immediate (R543). -/
def execXorm (ra : Reg) (data : Word) (s : State) : Outcome :=
  completing s 2 (logicalWord xorWord ra data)

/-- NR, NAND, register (R544). -/
def execNr (ra rb : Reg) (s : State) : Outcome :=
  completing s 1 fun n => logicalWord nandWord ra (n.reg rb) n

/-- N, NAND, direct (R545). -/
def execN (ra : Reg) (addr : Word) (rx : Reg) (s : State) : Outcome :=
  onOperand s 2 (·.directWord addr rx) (logicalWord nandWord ra)

/-- NIM, NAND, immediate (R546). -/
def execNim (ra : Reg) (data : Word) (s : State) : Outcome :=
  completing s 2 (logicalWord nandWord ra data)

/-- FIX: the integer part in a register and CS from it; out of range, CS from the unchanged register and the
overflow request; an operand that the standard does not allow leaves all three open
(48_logical_convert_exchange.md R547, 93_implementation_defined.md U4). -/
def fixWord (ra : Reg) (d : Double) (s : State) : State :=
  if isLegalFloat d then
    match integerPart 24 15 (unpackFloat d) with
    | none => (s.setCs (csSign (s.reg ra))).requestIf true 4
    | some v => (s.setReg ra (BitVec.ofInt 16 v)).setCs (csSign (BitVec.ofInt 16 v))
  else (s.openReg ra).openStatus

/-- EFIX, as FIX with a triple and a pair (48_logical_convert_exchange.md R549, 93_implementation_defined.md U4). -/
def fixPair (ra : Reg) (d : Triple) (s : State) : State :=
  if isLegalFloat d then
    match integerPart 40 31 (unpackExtended d) with
    | none => (s.setCs (csSign (s.pair ra))).requestIf true 4
    | some v => (s.setPair ra (BitVec.ofInt 32 v)).setCs (csSign (BitVec.ofInt 32 v))
  else s.openPair ra

/-- FLT (48_logical_convert_exchange.md R548). -/
def floatWord (ra : Reg) (d : Word) (s : State) : State :=
  (s.setPair ra (floatOfWord d)).setCs (csSign (floatOfWord d))

/-- EFLT (48_logical_convert_exchange.md R550). -/
def floatPair (ra : Reg) (d : Double) (s : State) : State :=
  (s.setTriple ra (extendedOfDouble d)).setCs (csSign (extendedOfDouble d))

/-- FIX, convert floating point to 16-bit integer (R547). -/
def execFix (ra rb : Reg) (s : State) : Outcome :=
  completing s 1 fun n => fixWord ra (n.pair rb) n

/-- FLT, convert 16-bit integer to floating point (R548). -/
def execFlt (ra rb : Reg) (s : State) : Outcome :=
  completing s 1 fun n => floatWord ra (n.reg rb) n

/-- EFIX, convert extended precision floating point to 32-bit integer (R549). -/
def execEfix (ra rb : Reg) (s : State) : Outcome :=
  completing s 1 fun n => fixPair ra (n.triple rb) n

/-- EFLT, convert 32-bit integer to extended precision floating point (R550). -/
def execEflt (ra rb : Reg) (s : State) : Outcome :=
  completing s 1 fun n => floatPair ra (n.pair rb) n

/-- XBR: the bytes of a register exchanged, and CS (48_logical_convert_exchange.md R551). -/
def exchangeBytes (ra : Reg) (s : State) : State :=
  let v := lowerByte (s.reg ra) ++ upperByte (s.reg ra)
  (s.setReg ra v).setCs (csSign v)

/-- XWR: two registers exchanged, and CS from the first (48_logical_convert_exchange.md R552). -/
def exchangeRegs (ra rb : Reg) (s : State) : State :=
  ((s.setReg ra (s.reg rb)).setReg rb (s.reg ra)).setCs (csSign (s.reg rb))

/-- XBR, exchange bytes in register (R551). -/
def execXbr (ra : Reg) (s : State) : Outcome :=
  completing s 1 (exchangeBytes ra)

/-- XWR, exchange words in registers (R552). -/
def execXwr (ra rb : Reg) (s : State) : Outcome :=
  completing s 1 (exchangeRegs ra rb)

end Sys2Proof.Machine
end

