-- ==== Sys2Proof/Machine/MulDiv.lean ====
section
/-! DEFINITION. The multiply and divide instructions (47_multiply_divide.md). -/

namespace Sys2Proof.Machine

/-- The 16-bit product of a register and a word (47_multiply_divide.md section 2). -/
def mulWord (ra : Reg) (d : Word) (s : State) : State :=
  let r := mulFixed (s.reg ra) d
  ((s.setReg ra r.1).setCs (csSign r.1)).requestIf r.2 4

/-- The 32-bit product of the accumulator and a word, in the accumulator pair (47_multiply_divide.md section 3). -/
def mulToPair (acc : Reg) (d : Word) (s : State) : State :=
  let p := mulWide (s.reg acc) d
  (s.setPair acc p).setCs (csSign p)

/-- The low half of the product of a pair and a double (47_multiply_divide.md section 4). -/
def mulPair (ra : Reg) (d : Double) (s : State) : State :=
  let r := mulFixed (s.pair ra) d
  ((s.setPair ra r.1).setCs (csSign r.1)).requestIf r.2 4

/-- A quotient and a remainder written, CS from the quotient, and the overflow request
(47_multiply_divide.md sections 7 and 8). -/
def putQuotient (acc : Reg) (r : Word × Word × Bool) (s : State) : State :=
  (((s.setReg acc r.1).setReg (acc + 1) r.2.1).setCs (csSign r.1)).requestIf r.2.2 4

/-- A register divided by a word (47_multiply_divide.md section 7). -/
def divWord (ra : Reg) (d : Word) (s : State) : State := putQuotient ra (divFixed (s.reg ra) d) s

/-- The accumulator pair divided by a word (47_multiply_divide.md section 8). -/
def divPairByWord (acc : Reg) (d : Word) (s : State) : State := putQuotient acc (divFixed (s.pair acc) d) s

/-- A pair divided by a double, the remainder lost (47_multiply_divide.md section 9). -/
def divPair (ra : Reg) (d : Double) (s : State) : State :=
  let r := divDouble (s.pair ra) d
  ((s.setPair ra r.1).setCs (csSign r.1)).requestIf r.2 4

/-- MSR, multiply single, register (R489). -/
def execMsr (ra rb : Reg) (s : State) : Outcome :=
  completing s 1 fun n => mulWord ra (n.reg rb) n

/-- MISP, multiply single, immediate short positive (R490). -/
def execMisp (ra : Reg) (n : Nat) (s : State) : Outcome :=
  completing s 1 (mulWord ra (shortPositive n))

/-- MISN, multiply single, immediate short negative (R491). -/
def execMisn (ra : Reg) (n : Nat) (s : State) : Outcome :=
  completing s 1 (mulWord ra (shortNegative n))

/-- MS, multiply single, direct (R492). -/
def execMs (ra : Reg) (addr : Word) (rx : Reg) (s : State) : Outcome :=
  onOperand s 2 (·.directWord addr rx) (mulWord ra)

/-- MSIM, multiply single, immediate (R493). -/
def execMsim (ra : Reg) (data : Word) (s : State) : Outcome :=
  completing s 2 (mulWord ra data)

/-- MR, multiply, register (R494). -/
def execMr (ra rb : Reg) (s : State) : Outcome :=
  completing s 1 fun n => mulToPair ra (n.reg rb) n

/-- MB, multiply, base relative (R495). -/
def execMb (br : Reg) (du : Byte) (s : State) : Outcome :=
  onOperand s 1 (·.basedWord br du) (mulToPair 2)

/-- MBX, multiply, base relative indexed (R496). -/
def execMbx (br rx : Reg) (s : State) : Outcome :=
  onOperand s 1 (·.baseIndexedWord br rx) (mulToPair 2)

/-- M, multiply, direct (R497). -/
def execM (ra : Reg) (addr : Word) (rx : Reg) (s : State) : Outcome :=
  onOperand s 2 (·.directWord addr rx) (mulToPair ra)

/-- MIM, multiply, immediate (R498). -/
def execMim (ra : Reg) (data : Word) (s : State) : Outcome :=
  completing s 2 (mulToPair ra data)

/-- DMR, double multiply, register (R499). -/
def execDmr (ra rb : Reg) (s : State) : Outcome :=
  completing s 1 fun n => mulPair ra (n.pair rb) n

/-- DM, double multiply, direct (R500). -/
def execDm (ra : Reg) (addr : Word) (rx : Reg) (s : State) : Outcome :=
  onOperand s 2 (·.directDouble addr rx) (mulPair ra)

/-- FMR, floating multiply, register (R501). -/
def execFmr (ra rb : Reg) (s : State) : Outcome :=
  completing s 1 fun n => floatWith (mulFloat 24) ra (n.pair rb) n

/-- FMB, floating multiply, base relative (R502). -/
def execFmb (br : Reg) (du : Byte) (s : State) : Outcome :=
  onOperand s 1 (·.basedDouble br du) (floatWith (mulFloat 24) 0)

/-- FMBX, floating multiply, base relative indexed (R503). -/
def execFmbx (br rx : Reg) (s : State) : Outcome :=
  onOperand s 1 (·.baseIndexedDouble br rx) (floatWith (mulFloat 24) 0)

/-- FM, floating multiply, direct (R504). -/
def execFm (ra : Reg) (addr : Word) (rx : Reg) (s : State) : Outcome :=
  onOperand s 2 (·.directDouble addr rx) (floatWith (mulFloat 24) ra)

/-- EFMR, extended floating multiply, register (R505). -/
def execEfmr (ra rb : Reg) (s : State) : Outcome :=
  completing s 1 fun n => extendedWith (mulFloat 40) ra (n.triple rb) n

/-- EFM, extended floating multiply, direct (R506). -/
def execEfm (ra : Reg) (addr : Word) (rx : Reg) (s : State) : Outcome :=
  onOperand s 2 (·.directTriple addr rx) (extendedWith (mulFloat 40) ra)

/-- DVR, divide single, register (R507). -/
def execDvr (ra rb : Reg) (s : State) : Outcome :=
  completing s 1 fun n => divWord ra (n.reg rb) n

/-- DISP, divide single, immediate short positive (R508). -/
def execDisp (ra : Reg) (n : Nat) (s : State) : Outcome :=
  completing s 1 (divWord ra (shortPositive n))

/-- DISN, divide single, immediate short negative (R509). -/
def execDisn (ra : Reg) (n : Nat) (s : State) : Outcome :=
  completing s 1 (divWord ra (shortNegative n))

/-- DV, divide single, direct (R510). -/
def execDv (ra : Reg) (addr : Word) (rx : Reg) (s : State) : Outcome :=
  onOperand s 2 (·.directWord addr rx) (divWord ra)

/-- DVIM, divide single, immediate (R511). -/
def execDvim (ra : Reg) (data : Word) (s : State) : Outcome :=
  completing s 2 (divWord ra data)

/-- DR, divide, register (R512). -/
def execDr (ra rb : Reg) (s : State) : Outcome :=
  completing s 1 fun n => divPairByWord ra (n.reg rb) n

/-- DB, divide, base relative (R513). -/
def execDb (br : Reg) (du : Byte) (s : State) : Outcome :=
  onOperand s 1 (·.basedWord br du) (divPairByWord 2)

/-- DBX, divide, base relative indexed (R514). -/
def execDbx (br rx : Reg) (s : State) : Outcome :=
  onOperand s 1 (·.baseIndexedWord br rx) (divPairByWord 2)

/-- D, divide, direct (R515). -/
def execD (ra : Reg) (addr : Word) (rx : Reg) (s : State) : Outcome :=
  onOperand s 2 (·.directWord addr rx) (divPairByWord ra)

/-- DIM, divide, immediate (R516). -/
def execDim (ra : Reg) (data : Word) (s : State) : Outcome :=
  completing s 2 (divPairByWord ra data)

/-- DDR, double divide, register (R517). -/
def execDdr (ra rb : Reg) (s : State) : Outcome :=
  completing s 1 fun n => divPair ra (n.pair rb) n

/-- DD, double divide, direct (R518). -/
def execDd (ra : Reg) (addr : Word) (rx : Reg) (s : State) : Outcome :=
  onOperand s 2 (·.directDouble addr rx) (divPair ra)

/-- FDR, floating divide, register (R519). -/
def execFdr (ra rb : Reg) (s : State) : Outcome :=
  completing s 1 fun n => floatWith (divFloat 24) ra (n.pair rb) n

/-- FDB, floating divide, base relative (R520). -/
def execFdb (br : Reg) (du : Byte) (s : State) : Outcome :=
  onOperand s 1 (·.basedDouble br du) (floatWith (divFloat 24) 0)

/-- FDBX, floating divide, base relative indexed (R521). -/
def execFdbx (br rx : Reg) (s : State) : Outcome :=
  onOperand s 1 (·.baseIndexedDouble br rx) (floatWith (divFloat 24) 0)

/-- FD, floating divide, direct (R522). -/
def execFd (ra : Reg) (addr : Word) (rx : Reg) (s : State) : Outcome :=
  onOperand s 2 (·.directDouble addr rx) (floatWith (divFloat 24) ra)

/-- EFDR, extended floating divide, register (R523). -/
def execEfdr (ra rb : Reg) (s : State) : Outcome :=
  completing s 1 fun n => extendedWith (divFloat 40) ra (n.triple rb) n

/-- EFD, extended floating divide, direct (R524). -/
def execEfd (ra : Reg) (addr : Word) (rx : Reg) (s : State) : Outcome :=
  onOperand s 2 (·.directTriple addr rx) (extendedWith (divFloat 40) ra)

end Sys2Proof.Machine
end

