-- ==== Sys2Proof/Machine/Shift.lean ====
section
/-! DEFINITION. The shift instructions (42_shift.md). -/

namespace Sys2Proof.Machine

/-- A shift result in a register, and CS (42_shift.md R310). -/
def putShifted (r : Reg) (v : Word) (s : State) : State := (s.setReg r v).setCs (csSign v)

/-- A shift result in a pair, and CS (42_shift.md R310). -/
def putShiftedPair (r : Reg) (v : Double) (s : State) : State := (s.setPair r v).setCs (csSign v)

/-- A shift of a register by the count in a register: out of range, it requests the fixed point overflow and
changes nothing else (42_shift.md R326). -/
def shiftRegister (left right : Word → Nat → Word) (overflows : Word → Nat → Bool) (ra rb : Reg) (s : State) :
    State :=
  match shiftByCount left right overflows (s.reg ra) (s.reg rb) with
  | none => s.requestIf true 4
  | some (v, o) => (putShifted ra v s).requestIf o 4

/-- A shift of a pair by the count in a register (42_shift.md R326). -/
def shiftPair (left right : Double → Nat → Double) (overflows : Double → Nat → Bool) (ra rb : Reg) (s : State) :
    State :=
  match shiftByCount left right overflows (s.pair ra) (s.reg rb) with
  | none => s.requestIf true 4
  | some (v, o) => (putShiftedPair ra v s).requestIf o 4

/-- SLL, shift left logical (R311). -/
def execSll (rb : Reg) (n : Nat) (s : State) : Outcome :=
  completing s 1 fun m => putShifted rb (shiftLeft (m.reg rb) n) m

/-- SRL, shift right logical (R312). -/
def execSrl (rb : Reg) (n : Nat) (s : State) : Outcome :=
  completing s 1 fun m => putShifted rb (shiftRight (m.reg rb) n) m

/-- SRA, shift right arithmetic (R313). -/
def execSra (rb : Reg) (n : Nat) (s : State) : Outcome :=
  completing s 1 fun m => putShifted rb (shiftArith (m.reg rb) n) m

/-- SLC, shift left cyclic (R314). -/
def execSlc (rb : Reg) (n : Nat) (s : State) : Outcome :=
  completing s 1 fun m => putShifted rb (rotateLeft (m.reg rb) n) m

/-- DSLL, double shift left logical (R315). -/
def execDsll (rb : Reg) (n : Nat) (s : State) : Outcome :=
  completing s 1 fun m => putShiftedPair rb (shiftLeft (m.pair rb) n) m

/-- DSRL, double shift right logical (R316). -/
def execDsrl (rb : Reg) (n : Nat) (s : State) : Outcome :=
  completing s 1 fun m => putShiftedPair rb (shiftRight (m.pair rb) n) m

/-- DSRA, double shift right arithmetic (R317). -/
def execDsra (rb : Reg) (n : Nat) (s : State) : Outcome :=
  completing s 1 fun m => putShiftedPair rb (shiftArith (m.pair rb) n) m

/-- DSLC, double shift left cyclic (R318). -/
def execDslc (rb : Reg) (n : Nat) (s : State) : Outcome :=
  completing s 1 fun m => putShiftedPair rb (rotateLeft (m.pair rb) n) m

/-- SLR, shift logical, count in register (R320). -/
def execSlr (ra rb : Reg) (s : State) : Outcome :=
  completing s 1 (shiftRegister shiftLeft shiftRight neverChanges ra rb)

/-- SAR, shift arithmetic, count in register (R321). -/
def execSar (ra rb : Reg) (s : State) : Outcome :=
  completing s 1 (shiftRegister shiftLeft shiftArith signChanges ra rb)

/-- SCR, shift cyclic, count in register (R322). -/
def execScr (ra rb : Reg) (s : State) : Outcome :=
  completing s 1 (shiftRegister rotateLeft rotateRight neverChanges ra rb)

/-- DSLR, double shift logical, count in register (R323). -/
def execDslr (ra rb : Reg) (s : State) : Outcome :=
  completing s 1 (shiftPair shiftLeft shiftRight neverChanges ra rb)

/-- DSAR, double shift arithmetic, count in register (R324). -/
def execDsar (ra rb : Reg) (s : State) : Outcome :=
  completing s 1 (shiftPair shiftLeft shiftArith signChanges ra rb)

/-- DSCR, double shift cyclic, count in register (R325). -/
def execDscr (ra rb : Reg) (s : State) : Outcome :=
  completing s 1 (shiftPair rotateLeft rotateRight neverChanges ra rb)

end Sys2Proof.Machine
end

