-- ==== Sys2Proof/Machine/Store.lean ====
section
/-! DEFINITION. The store instructions (45_store.md). -/

namespace Sys2Proof.Machine

/-- STB, store, base relative (R401). -/
def execStb (br : Reg) (du : Byte) (s : State) : Outcome :=
  completing s 1 fun n => n.store (n.based br du) [n.reg 2]

/-- STBX, store, base relative indexed (R402). -/
def execStbx (br rx : Reg) (s : State) : Outcome :=
  completing s 1 fun n => n.store (n.baseIndexed br rx) [n.reg 2]

/-- ST, store, direct (R403). -/
def execSt (ra : Reg) (addr : Word) (rx : Reg) (s : State) : Outcome :=
  completing s 2 fun n => n.store (n.direct addr rx) [n.reg ra]

/-- STI, store, indirect (R404). -/
def execSti (ra : Reg) (addr : Word) (rx : Reg) (s : State) : Outcome :=
  onOperand s 2 (·.indirect addr rx) fun da n => n.store da [n.reg ra]

/-- STC, store a non-negative constant, direct (R405). -/
def execStc (n : Nibble) (addr : Word) (rx : Reg) (s : State) : Outcome :=
  completing s 2 fun m => m.store (m.direct addr rx) [n.setWidth 16]

/-- STCI, store a non-negative constant, indirect (R406). -/
def execStci (n : Nibble) (addr : Word) (rx : Reg) (s : State) : Outcome :=
  onOperand s 2 (·.indirect addr rx) fun da m => m.store da [n.setWidth 16]

/-- The registers of MOV after a word is moved: the two addresses go up and the count goes down, in this order
(45_store.md R409). -/
def moveRegs (ra rb : Reg) (s : State) : State :=
  let s1 := s.setReg ra (s.reg ra + 1)
  let s2 := s1.setReg rb (s1.reg rb + 1)
  s2.setReg (ra + 1) (s2.reg (ra + 1) - 1)

/-- IC after a word is moved, `s` being the state of the step: past the MOV when the count has run out, else at the
MOV (45_store.md R409). -/
def moveCounter (ra : Reg) (ia : Word) (s : State) : State :=
  { s with ic := if s.reg (ra + 1) = 0 then ia + 1 else ia }

/-- A register field of MOV names the address and the count or both addresses at once, which the standard does not
address (45_store.md R409, 93_implementation_defined.md U7). -/
def moveOverlaps (ra rb : Reg) : Bool := rb == ra || rb == ra + 1

/-- One word moved by a MOV whose registers overlap: the word stored and the final registers are the next free values
(93_implementation_defined.md U7; log 13). -/
def moveOpen (ra rb : Reg) (ia : Word) (s : State) : State :=
  s.writeThen [(s.reg ra, s.draw.1)] fun t =>
    let (a, t1) := t.draw.2.draw
    let (b, t2) := t1.draw
    let (c, t3) := t2.draw
    moveCounter ra ia (setRegs [(ra, a), (rb, b), (ra + 1, c)] t3)

/-- One word moved by a MOV (45_store.md R409). -/
def moveWord (ra rb : Reg) (ia w : Word) (s : State) : State :=
  if moveOverlaps ra rb then moveOpen ra rb ia s
  else s.writeThen [(s.reg ra, w)] fun t => moveCounter ra ia (moveRegs ra rb t)

/-- MOV, move multiple words, memory-to-memory (R409). One word per step: IC stays at the MOV until the count has
run out. -/
def execMov (ra rb : Reg) (s : State) : Outcome :=
  if s.reg (ra + 1) = 0 then completing s 1 id
  else onOperand s 1 (fun n => n.read (n.reg rb)) (moveWord ra rb s.ic)

/-- DSTB, double store, base relative (R410). -/
def execDstb (br : Reg) (du : Byte) (s : State) : Outcome :=
  completing s 1 fun n => n.store (n.based br du) [n.reg 0, n.reg 1]

/-- DSTX, double store, base relative indexed (R411). -/
def execDstx (br rx : Reg) (s : State) : Outcome :=
  completing s 1 fun n => n.store (n.baseIndexed br rx) [n.reg 0, n.reg 1]

/-- DST, double store, direct (R412). -/
def execDst (ra : Reg) (addr : Word) (rx : Reg) (s : State) : Outcome :=
  completing s 2 fun n => n.store (n.direct addr rx) [n.reg ra, n.reg (ra + 1)]

/-- DSTI, double store, indirect (R413). -/
def execDsti (ra : Reg) (addr : Word) (rx : Reg) (s : State) : Outcome :=
  onOperand s 2 (·.indirect addr rx) fun da n => n.store da [n.reg ra, n.reg (ra + 1)]

/-- The word that SRM stores: the bits of the register where the mask is one, of memory where it is zero
(45_store.md R414). -/
def throughMask (q data mask : Word) : Word := (q &&& ~~~mask) ||| (data &&& mask)

/-- SRM, store register through mask (R414). -/
def execSrm (ra : Reg) (addr : Word) (rx : Reg) (s : State) : Outcome :=
  onOperand s 2 (·.directCell addr rx) (storeBack fun n q => throughMask q (n.reg ra) (n.reg (ra + 1)))

/-- STM, store multiple registers (R415). -/
def execStm (n : Nibble) (addr : Word) (rx : Reg) (s : State) : Outcome :=
  completing s 2 fun m => m.store (m.direct addr rx) ((regsTo n).map m.reg)

/-- EFST, extended precision floating point store (R416). -/
def execEfst (ra : Reg) (addr : Word) (rx : Reg) (s : State) : Outcome :=
  completing s 2 fun n => n.store (n.direct addr rx) [n.reg ra, n.reg (ra + 1), n.reg (ra + 2)]

/-- The lower byte of a register put into the upper byte of a word (45_store.md R422). -/
def putUpper (ra : Reg) (s : State) (q : Word) : Word := withUpperByte q (lowerByte (s.reg ra))

/-- The lower byte of a register put into the lower byte of a word (45_store.md R424). -/
def putLower (ra : Reg) (s : State) (q : Word) : Word := withLowerByte q (lowerByte (s.reg ra))

/-- STUB, store into upper byte, direct (R422). -/
def execStub (ra : Reg) (addr : Word) (rx : Reg) (s : State) : Outcome :=
  onOperand s 2 (·.directCell addr rx) (storeBack (putUpper ra))

/-- SUBI, store into upper byte, indirect (R423). -/
def execSubi (ra : Reg) (addr : Word) (rx : Reg) (s : State) : Outcome :=
  onOperand s 2 (·.indirectCell addr rx) (storeBack (putUpper ra))

/-- STLB, store into lower byte, direct (R424). -/
def execStlb (ra : Reg) (addr : Word) (rx : Reg) (s : State) : Outcome :=
  onOperand s 2 (·.directCell addr rx) (storeBack (putLower ra))

/-- SLBI, store into lower byte, indirect (R425). -/
def execSlbi (ra : Reg) (addr : Word) (rx : Reg) (s : State) : Outcome :=
  onOperand s 2 (·.indirectCell addr rx) (storeBack (putLower ra))

/-- The stores of PSHM: the registers from the last to the first, each at the address one below the one before, and
for R15 the stack pointer already decremented for that very word (45_store.md R426). -/
def pushes (sp : Word) (rs : List Reg) (s : State) : List (Word × Word) :=
  match rs with
  | [] => []
  | r :: rest => (sp - 1, if r = 15 then sp - 1 else s.reg r) :: pushes (sp - 1) rest s

/-- PSHM, push multiple registers onto the stack (R426). -/
def execPshm (ra rb : Reg) (s : State) : Outcome :=
  completing s 1 fun n =>
    n.writeThen (pushes (n.reg 15) (regsFromTo ra rb).reverse n) fun t =>
      t.setReg 15 (n.reg 15 - BitVec.ofNat 16 (regsFromTo ra rb).length)

end Sys2Proof.Machine
end

