-- ==== Sys2Proof/Syntax.lean ====
section
/-! DEFINITION. The instructions: one constructor per row of spec/opcode_table.json, in the table's order.
The operands stand in the assembler's order (30_encoding.md R213). A count that the encoding holds minus one is the
number itself, a Nat (R216), and a base register is its register number (R213); WellFormed.lean says which values
an instruction can have. -/

namespace Sys2Proof

/-- An instruction of MIL-STD-1750A. -/
inductive Instr where
  /-- LB, load, base relative (44_load.md R372). -/
  | lb (br : Reg) (du : Byte)
  /-- DLB, double load, base relative (44_load.md R380). -/
  | dlb (br : Reg) (du : Byte)
  /-- STB, store, base relative (45_store.md R401). -/
  | stb (br : Reg) (du : Byte)
  /-- DSTB, double store, base relative (45_store.md R410). -/
  | dstb (br : Reg) (du : Byte)
  /-- AB, add, base relative (46_add_subtract.md R436). -/
  | ab (br : Reg) (du : Byte)
  /-- SBB, subtract, base relative (46_add_subtract.md R454). -/
  | sbb (br : Reg) (du : Byte)
  /-- MB, multiply, base relative (47_multiply_divide.md R495). -/
  | mb (br : Reg) (du : Byte)
  /-- DB, divide, base relative (47_multiply_divide.md R513). -/
  | db (br : Reg) (du : Byte)
  /-- FAB, floating add, base relative (46_add_subtract.md R447). -/
  | fab (br : Reg) (du : Byte)
  /-- FSB, floating subtract, base relative (46_add_subtract.md R465). -/
  | fsb (br : Reg) (du : Byte)
  /-- FMB, floating multiply, base relative (47_multiply_divide.md R502). -/
  | fmb (br : Reg) (du : Byte)
  /-- FDB, floating divide, base relative (47_multiply_divide.md R520). -/
  | fdb (br : Reg) (du : Byte)
  /-- ORB, OR, base relative (48_logical_convert_exchange.md R532). -/
  | orb (br : Reg) (du : Byte)
  /-- ANDB, AND, base relative (48_logical_convert_exchange.md R537). -/
  | andb (br : Reg) (du : Byte)
  /-- CB, compare, base relative (49_compare_nop_bpt.md R562). -/
  | cb (br : Reg) (du : Byte)
  /-- FCB, floating point compare, base relative (49_compare_nop_bpt.md R572). -/
  | fcb (br : Reg) (du : Byte)
  /-- LBX, load, base relative indexed (44_load.md R373). -/
  | lbx (br rx : Reg)
  /-- DLBX, double load, base relative indexed (44_load.md R381). -/
  | dlbx (br rx : Reg)
  /-- STBX, store, base relative indexed (45_store.md R402). -/
  | stbx (br rx : Reg)
  /-- DSTX, double store, base relative indexed (45_store.md R411). -/
  | dstx (br rx : Reg)
  /-- ABX, add, base relative indexed (46_add_subtract.md R437). -/
  | abx (br rx : Reg)
  /-- SBBX, subtract, base relative indexed (46_add_subtract.md R455). -/
  | sbbx (br rx : Reg)
  /-- MBX, multiply, base relative indexed (47_multiply_divide.md R496). -/
  | mbx (br rx : Reg)
  /-- DBX, divide, base relative indexed (47_multiply_divide.md R514). -/
  | dbx (br rx : Reg)
  /-- FABX, floating add, base relative indexed (46_add_subtract.md R448). -/
  | fabx (br rx : Reg)
  /-- FSBX, floating subtract, base relative indexed (46_add_subtract.md R466). -/
  | fsbx (br rx : Reg)
  /-- FMBX, floating multiply, base relative indexed (47_multiply_divide.md R503). -/
  | fmbx (br rx : Reg)
  /-- FDBX, floating divide, base relative indexed (47_multiply_divide.md R521). -/
  | fdbx (br rx : Reg)
  /-- CBX, compare, base relative indexed (49_compare_nop_bpt.md R563). -/
  | cbx (br rx : Reg)
  /-- FCBX, floating point compare, base relative indexed (49_compare_nop_bpt.md R573). -/
  | fcbx (br rx : Reg)
  /-- ANDX, AND, base relative indexed (48_logical_convert_exchange.md R538). -/
  | andx (br rx : Reg)
  /-- ORBX, OR, base relative indexed (48_logical_convert_exchange.md R533). -/
  | orbx (br rx : Reg)
  /-- XIO, execute input/output (40_input_output.md R224). -/
  | xio (ra : Reg) (cmd : Word) (rx : Reg)
  /-- VIO, vectored input/output (40_input_output.md R275). -/
  | vio (ra : Reg) (addr : Word) (rx : Reg)
  /-- AIM, add immediate (46_add_subtract.md R440). -/
  | aim (ra : Reg) (data : Word)
  /-- SIM, subtract immediate (46_add_subtract.md R458). -/
  | sim (ra : Reg) (data : Word)
  /-- MIM, multiply, immediate (47_multiply_divide.md R498). -/
  | mim (ra : Reg) (data : Word)
  /-- MSIM, multiply single, immediate (47_multiply_divide.md R493). -/
  | msim (ra : Reg) (data : Word)
  /-- DIM, divide, immediate (47_multiply_divide.md R516). -/
  | dim (ra : Reg) (data : Word)
  /-- DVIM, divide single, immediate (47_multiply_divide.md R511). -/
  | dvim (ra : Reg) (data : Word)
  /-- ANDM, AND, immediate (48_logical_convert_exchange.md R540). -/
  | andm (ra : Reg) (data : Word)
  /-- ORIM, OR, immediate (48_logical_convert_exchange.md R535). -/
  | orim (ra : Reg) (data : Word)
  /-- XORM, exclusive OR, immediate (48_logical_convert_exchange.md R543). -/
  | xorm (ra : Reg) (data : Word)
  /-- CIM, compare, immediate (49_compare_nop_bpt.md R567). -/
  | cim (ra : Reg) (data : Word)
  /-- NIM, NAND, immediate (48_logical_convert_exchange.md R546). -/
  | nim (ra : Reg) (data : Word)
  /-- SB, set bit, memory direct (41_bit.md R291). -/
  | sb (n : Nibble) (addr : Word) (rx : Reg)
  /-- SBR, set bit, register (41_bit.md R292). -/
  | sbr (n : Nibble) (rb : Reg)
  /-- SBI, set bit, memory indirect (41_bit.md R293). -/
  | sbi (n : Nibble) (addr : Word) (rx : Reg)
  /-- RB, reset bit, memory direct (41_bit.md R294). -/
  | rb (n : Nibble) (addr : Word) (rx : Reg)
  /-- RBR, reset bit, register (41_bit.md R295). -/
  | rbr (n : Nibble) (rb : Reg)
  /-- RBI, reset bit, memory indirect (41_bit.md R296). -/
  | rbi (n : Nibble) (addr : Word) (rx : Reg)
  /-- TB, test bit, memory direct (41_bit.md R297). -/
  | tb (n : Nibble) (addr : Word) (rx : Reg)
  /-- TBR, test bit, register (41_bit.md R298). -/
  | tbr (n : Nibble) (rb : Reg)
  /-- TBI, test bit, memory indirect (41_bit.md R299). -/
  | tbi (n : Nibble) (addr : Word) (rx : Reg)
  /-- TSB, test and set bit (41_bit.md R300). -/
  | tsb (n : Nibble) (addr : Word) (rx : Reg)
  /-- SVBR, set variable bit in register (41_bit.md R301). -/
  | svbr (ra rb : Reg)
  /-- RVBR, reset variable bit in register (41_bit.md R302). -/
  | rvbr (ra rb : Reg)
  /-- TVBR, test variable bit in register (41_bit.md R303). -/
  | tvbr (ra rb : Reg)
  /-- SLL, shift left logical (42_shift.md R311). -/
  | sll (rb : Reg) (n : Nat)
  /-- SRL, shift right logical (42_shift.md R312). -/
  | srl (rb : Reg) (n : Nat)
  /-- SRA, shift right arithmetic (42_shift.md R313). -/
  | sra (rb : Reg) (n : Nat)
  /-- SLC, shift left cyclic (42_shift.md R314). -/
  | slc (rb : Reg) (n : Nat)
  /-- DSLL, double shift left logical (42_shift.md R315). -/
  | dsll (rb : Reg) (n : Nat)
  /-- DSRL, double shift right logical (42_shift.md R316). -/
  | dsrl (rb : Reg) (n : Nat)
  /-- DSRA, double shift right arithmetic (42_shift.md R317). -/
  | dsra (rb : Reg) (n : Nat)
  /-- DSLC, double shift left cyclic (42_shift.md R318). -/
  | dslc (rb : Reg) (n : Nat)
  /-- SLR, shift logical, count in register (42_shift.md R320). -/
  | slr (ra rb : Reg)
  /-- SAR, shift arithmetic, count in register (42_shift.md R321). -/
  | sar (ra rb : Reg)
  /-- SCR, shift cyclic, count in register (42_shift.md R322). -/
  | scr (ra rb : Reg)
  /-- DSLR, double shift logical, count in register (42_shift.md R323). -/
  | dslr (ra rb : Reg)
  /-- DSAR, double shift arithmetic, count in register (42_shift.md R324). -/
  | dsar (ra rb : Reg)
  /-- DSCR, double shift cyclic, count in register (42_shift.md R325). -/
  | dscr (ra rb : Reg)
  /-- JC, jump on condition, direct (43_jump_branch.md R341). -/
  | jc (c : Nibble) (addr : Word) (rx : Reg)
  /-- JCI, jump on condition, indirect (43_jump_branch.md R342). -/
  | jci (c : Nibble) (addr : Word) (rx : Reg)
  /-- JS, jump to subroutine (43_jump_branch.md R343). -/
  | js (ra : Reg) (addr : Word) (rx : Reg)
  /-- SOJ, subtract one and jump (43_jump_branch.md R344). -/
  | soj (ra : Reg) (addr : Word) (rx : Reg)
  /-- BR, branch unconditionally (43_jump_branch.md R345). -/
  | br (d : Byte)
  /-- BEZ, branch if equal to (zero) (43_jump_branch.md R346). -/
  | bez (d : Byte)
  /-- BLT, branch if less than (zero) (43_jump_branch.md R347). -/
  | blt (d : Byte)
  /-- BEX, branch to executive (43_jump_branch.md R348). -/
  | bex (n : Nibble)
  /-- BLE, branch if less than or equal to (zero) (43_jump_branch.md R349). -/
  | ble (d : Byte)
  /-- BGT, branch if greater than (zero) (43_jump_branch.md R350). -/
  | bgt (d : Byte)
  /-- BNZ, branch if not equal to (zero) (43_jump_branch.md R351). -/
  | bnz (d : Byte)
  /-- BGE, branch if greater than or equal to (zero) (43_jump_branch.md R352). -/
  | bge (d : Byte)
  /-- LSTI, load status, indirect (43_jump_branch.md R353). -/
  | lsti (addr : Word) (rx : Reg)
  /-- LST, load status (43_jump_branch.md R354). -/
  | lst (addr : Word) (rx : Reg)
  /-- SJS, stack IC and jump to subroutine (43_jump_branch.md R355). -/
  | sjs (ra : Reg) (addr : Word) (rx : Reg)
  /-- URS, unstack IC and return from subroutine (43_jump_branch.md R356). -/
  | urs (ra : Reg)
  /-- L, load, direct (44_load.md R376). -/
  | l (ra : Reg) (addr : Word) (rx : Reg)
  /-- LR, load, register (44_load.md R371). -/
  | lr (ra rb : Reg)
  /-- LISP, load immediate short positive (44_load.md R374). -/
  | lisp (ra : Reg) (n : Nat)
  /-- LISN, load immediate short negative (44_load.md R375). -/
  | lisn (ra : Reg) (n : Nat)
  /-- LI, load, indirect (44_load.md R378). -/
  | li (ra : Reg) (addr : Word) (rx : Reg)
  /-- LIM, load, immediate long (44_load.md R377). -/
  | lim (ra : Reg) (data : Word) (rx : Reg)
  /-- DL, double load, direct (44_load.md R382). -/
  | dl (ra : Reg) (addr : Word) (rx : Reg)
  /-- DLR, double load, register (44_load.md R379). -/
  | dlr (ra rb : Reg)
  /-- DLI, double load, indirect (44_load.md R383). -/
  | dli (ra : Reg) (addr : Word) (rx : Reg)
  /-- LM, load multiple registers (44_load.md R384). -/
  | lm (n : Nibble) (addr : Word) (rx : Reg)
  /-- EFL, extended precision floating point load (44_load.md R385). -/
  | efl (ra : Reg) (addr : Word) (rx : Reg)
  /-- LUB, load from upper byte, direct (44_load.md R392). -/
  | lub (ra : Reg) (addr : Word) (rx : Reg)
  /-- LLB, load from lower byte, direct (44_load.md R394). -/
  | llb (ra : Reg) (addr : Word) (rx : Reg)
  /-- LUBI, load from upper byte, indirect (44_load.md R393). -/
  | lubi (ra : Reg) (addr : Word) (rx : Reg)
  /-- LLBI, load from lower byte, indirect (44_load.md R395). -/
  | llbi (ra : Reg) (addr : Word) (rx : Reg)
  /-- POPM, pop multiple registers off the stack (44_load.md R396). -/
  | popm (ra rb : Reg)
  /-- ST, store, direct (45_store.md R403). -/
  | st (ra : Reg) (addr : Word) (rx : Reg)
  /-- STC, store a non-negative constant, direct (45_store.md R405). -/
  | stc (n : Nibble) (addr : Word) (rx : Reg)
  /-- STCI, store a non-negative constant, indirect (45_store.md R406). -/
  | stci (n : Nibble) (addr : Word) (rx : Reg)
  /-- MOV, move multiple words, memory-to-memory (45_store.md R409). -/
  | mov (ra rb : Reg)
  /-- STI, store, indirect (45_store.md R404). -/
  | sti (ra : Reg) (addr : Word) (rx : Reg)
  /-- DST, double store, direct (45_store.md R412). -/
  | dst (ra : Reg) (addr : Word) (rx : Reg)
  /-- SRM, store register through mask (45_store.md R414). -/
  | srm (ra : Reg) (addr : Word) (rx : Reg)
  /-- DSTI, double store, indirect (45_store.md R413). -/
  | dsti (ra : Reg) (addr : Word) (rx : Reg)
  /-- STM, store multiple registers (45_store.md R415). -/
  | stm (n : Nibble) (addr : Word) (rx : Reg)
  /-- EFST, extended precision floating point store (45_store.md R416). -/
  | efst (ra : Reg) (addr : Word) (rx : Reg)
  /-- STUB, store into upper byte, direct (45_store.md R422). -/
  | stub (ra : Reg) (addr : Word) (rx : Reg)
  /-- STLB, store into lower byte, direct (45_store.md R424). -/
  | stlb (ra : Reg) (addr : Word) (rx : Reg)
  /-- SUBI, store into upper byte, indirect (45_store.md R423). -/
  | subi (ra : Reg) (addr : Word) (rx : Reg)
  /-- SLBI, store into lower byte, indirect (45_store.md R425). -/
  | slbi (ra : Reg) (addr : Word) (rx : Reg)
  /-- PSHM, push multiple registers onto the stack (45_store.md R426). -/
  | pshm (ra rb : Reg)
  /-- A, add, direct (46_add_subtract.md R439). -/
  | a (ra : Reg) (addr : Word) (rx : Reg)
  /-- AR, add, register (46_add_subtract.md R435). -/
  | ar (ra rb : Reg)
  /-- AISP, add immediate short positive (46_add_subtract.md R438). -/
  | aisp (ra : Reg) (n : Nat)
  /-- INCM, increment memory by a positive integer (46_add_subtract.md R441). -/
  | incm (n : Nat) (addr : Word) (rx : Reg)
  /-- ABS, single precision absolute value of register (46_add_subtract.md R442). -/
  | abs (ra rb : Reg)
  /-- DABS, double precision absolute value of register (46_add_subtract.md R443). -/
  | dabs (ra rb : Reg)
  /-- DA, double add, direct (46_add_subtract.md R445). -/
  | da (ra : Reg) (addr : Word) (rx : Reg)
  /-- DAR, double add, register (46_add_subtract.md R444). -/
  | dar (ra rb : Reg)
  /-- FA, floating add, direct (46_add_subtract.md R449). -/
  | fa (ra : Reg) (addr : Word) (rx : Reg)
  /-- FAR, floating add, register (46_add_subtract.md R446). -/
  | far (ra rb : Reg)
  /-- EFA, extended floating add, direct (46_add_subtract.md R451). -/
  | efa (ra : Reg) (addr : Word) (rx : Reg)
  /-- EFAR, extended floating add, register (46_add_subtract.md R450). -/
  | efar (ra rb : Reg)
  /-- FABS, floating point absolute value of register (46_add_subtract.md R452). -/
  | fabs (ra rb : Reg)
  /-- S, subtract, direct (46_add_subtract.md R457). -/
  | s (ra : Reg) (addr : Word) (rx : Reg)
  /-- SR, subtract, register (46_add_subtract.md R453). -/
  | sr (ra rb : Reg)
  /-- SISP, subtract immediate short positive (46_add_subtract.md R456). -/
  | sisp (ra : Reg) (n : Nat)
  /-- DECM, decrement memory by a positive integer (46_add_subtract.md R459). -/
  | decm (n : Nat) (addr : Word) (rx : Reg)
  /-- NEG, single precision negate register (46_add_subtract.md R460). -/
  | neg (ra rb : Reg)
  /-- DNEG, double precision negate register (46_add_subtract.md R461). -/
  | dneg (ra rb : Reg)
  /-- DS, double subtract, direct (46_add_subtract.md R463). -/
  | ds (ra : Reg) (addr : Word) (rx : Reg)
  /-- DSR, double subtract, register (46_add_subtract.md R462). -/
  | dsr (ra rb : Reg)
  /-- FS, floating subtract, direct (46_add_subtract.md R467). -/
  | fs (ra : Reg) (addr : Word) (rx : Reg)
  /-- FSR, floating subtract, register (46_add_subtract.md R464). -/
  | fsr (ra rb : Reg)
  /-- EFS, extended floating subtract, direct (46_add_subtract.md R469). -/
  | efs (ra : Reg) (addr : Word) (rx : Reg)
  /-- EFSR, extended floating subtract, register (46_add_subtract.md R468). -/
  | efsr (ra rb : Reg)
  /-- FNEG, floating point negate register (46_add_subtract.md R470). -/
  | fneg (ra rb : Reg)
  /-- MS, multiply single, direct (47_multiply_divide.md R492). -/
  | ms (ra : Reg) (addr : Word) (rx : Reg)
  /-- MSR, multiply single, register (47_multiply_divide.md R489). -/
  | msr (ra rb : Reg)
  /-- MISP, multiply single, immediate short positive (47_multiply_divide.md R490). -/
  | misp (ra : Reg) (n : Nat)
  /-- MISN, multiply single, immediate short negative (47_multiply_divide.md R491). -/
  | misn (ra : Reg) (n : Nat)
  /-- M, multiply, direct (47_multiply_divide.md R497). -/
  | m (ra : Reg) (addr : Word) (rx : Reg)
  /-- MR, multiply, register (47_multiply_divide.md R494). -/
  | mr (ra rb : Reg)
  /-- DM, double multiply, direct (47_multiply_divide.md R500). -/
  | dm (ra : Reg) (addr : Word) (rx : Reg)
  /-- DMR, double multiply, register (47_multiply_divide.md R499). -/
  | dmr (ra rb : Reg)
  /-- FM, floating multiply, direct (47_multiply_divide.md R504). -/
  | fm (ra : Reg) (addr : Word) (rx : Reg)
  /-- FMR, floating multiply, register (47_multiply_divide.md R501). -/
  | fmr (ra rb : Reg)
  /-- EFM, extended floating multiply, direct (47_multiply_divide.md R506). -/
  | efm (ra : Reg) (addr : Word) (rx : Reg)
  /-- EFMR, extended floating multiply, register (47_multiply_divide.md R505). -/
  | efmr (ra rb : Reg)
  /-- DV, divide single, direct (47_multiply_divide.md R510). -/
  | dv (ra : Reg) (addr : Word) (rx : Reg)
  /-- DVR, divide single, register (47_multiply_divide.md R507). -/
  | dvr (ra rb : Reg)
  /-- DISP, divide single, immediate short positive (47_multiply_divide.md R508). -/
  | disp (ra : Reg) (n : Nat)
  /-- DISN, divide single, immediate short negative (47_multiply_divide.md R509). -/
  | disn (ra : Reg) (n : Nat)
  /-- D, divide, direct (47_multiply_divide.md R515). -/
  | d (ra : Reg) (addr : Word) (rx : Reg)
  /-- DR, divide, register (47_multiply_divide.md R512). -/
  | dr (ra rb : Reg)
  /-- DD, double divide, direct (47_multiply_divide.md R518). -/
  | dd (ra : Reg) (addr : Word) (rx : Reg)
  /-- DDR, double divide, register (47_multiply_divide.md R517). -/
  | ddr (ra rb : Reg)
  /-- FD, floating divide, direct (47_multiply_divide.md R522). -/
  | fd (ra : Reg) (addr : Word) (rx : Reg)
  /-- FDR, floating divide, register (47_multiply_divide.md R519). -/
  | fdr (ra rb : Reg)
  /-- EFD, extended floating divide, direct (47_multiply_divide.md R524). -/
  | efd (ra : Reg) (addr : Word) (rx : Reg)
  /-- EFDR, extended floating divide, register (47_multiply_divide.md R523). -/
  | efdr (ra rb : Reg)
  /-- OR, OR, direct (48_logical_convert_exchange.md R534). -/
  | or (ra : Reg) (addr : Word) (rx : Reg)
  /-- ORR, OR, register (48_logical_convert_exchange.md R531). -/
  | orr (ra rb : Reg)
  /-- AND, AND, direct (48_logical_convert_exchange.md R539). -/
  | and (ra : Reg) (addr : Word) (rx : Reg)
  /-- ANDR, AND, register (48_logical_convert_exchange.md R536). -/
  | andr (ra rb : Reg)
  /-- XOR, exclusive OR, direct (48_logical_convert_exchange.md R542). -/
  | xor (ra : Reg) (addr : Word) (rx : Reg)
  /-- XORR, exclusive OR, register (48_logical_convert_exchange.md R541). -/
  | xorr (ra rb : Reg)
  /-- N, NAND, direct (48_logical_convert_exchange.md R545). -/
  | n (ra : Reg) (addr : Word) (rx : Reg)
  /-- NR, NAND, register (48_logical_convert_exchange.md R544). -/
  | nr (ra rb : Reg)
  /-- FIX, convert floating point to 16-bit integer (48_logical_convert_exchange.md R547). -/
  | fix (ra rb : Reg)
  /-- FLT, convert 16-bit integer to floating point (48_logical_convert_exchange.md R548). -/
  | flt (ra rb : Reg)
  /-- EFIX, convert extended precision floating point to 32-bit integer (48_logical_convert_exchange.md R549). -/
  | efix (ra rb : Reg)
  /-- EFLT, convert 32-bit integer to extended precision floating point (48_logical_convert_exchange.md R550). -/
  | eflt (ra rb : Reg)
  /-- XBR, exchange bytes in register (48_logical_convert_exchange.md R551). -/
  | xbr (ra : Reg)
  /-- XWR, exchange words in registers (48_logical_convert_exchange.md R552). -/
  | xwr (ra rb : Reg)
  /-- C, compare, direct (49_compare_nop_bpt.md R566). -/
  | c (ra : Reg) (addr : Word) (rx : Reg)
  /-- CR, compare, register (49_compare_nop_bpt.md R561). -/
  | cr (ra rb : Reg)
  /-- CISP, compare, immediate short positive (49_compare_nop_bpt.md R564). -/
  | cisp (ra : Reg) (n : Nat)
  /-- CISN, compare, immediate short negative (49_compare_nop_bpt.md R565). -/
  | cisn (ra : Reg) (n : Nat)
  /-- CBL, compare between limits (49_compare_nop_bpt.md R568). -/
  | cbl (ra : Reg) (addr : Word) (rx : Reg)
  /-- DC, double precision compare, direct (49_compare_nop_bpt.md R570). -/
  | dc (ra : Reg) (addr : Word) (rx : Reg)
  /-- DCR, double precision compare, register (49_compare_nop_bpt.md R569). -/
  | dcr (ra rb : Reg)
  /-- FC, floating point compare, direct (49_compare_nop_bpt.md R574). -/
  | fc (ra : Reg) (addr : Word) (rx : Reg)
  /-- FCR, floating point compare, register (49_compare_nop_bpt.md R571). -/
  | fcr (ra rb : Reg)
  /-- EFC, extended precision floating point compare, direct (49_compare_nop_bpt.md R576). -/
  | efc (ra : Reg) (addr : Word) (rx : Reg)
  /-- EFCR, extended precision floating point compare, register (49_compare_nop_bpt.md R575). -/
  | efcr (ra rb : Reg)
  /-- NOP, no operation (49_compare_nop_bpt.md R577). -/
  | nop
  /-- BPT, break point (49_compare_nop_bpt.md R578). -/
  | bpt
  deriving DecidableEq, Repr

end Sys2Proof
end

