-- ==== Sys2Proof/Machine/Dispatch.lean ====
section
/-! DEFINITION. The dispatch of an instruction to its meaning: one arm per constructor, in the order of
spec/opcode_table.json. -/

namespace Sys2Proof.Machine

def exec (i : Instr) (s : State) : Host.Outcome State Fault Refusal :=
  match i with
  | .lb br du => Sys2Proof.Machine.execLb br du s
  | .dlb br du => Sys2Proof.Machine.execDlb br du s
  | .stb br du => Sys2Proof.Machine.execStb br du s
  | .dstb br du => Sys2Proof.Machine.execDstb br du s
  | .ab br du => Sys2Proof.Machine.execAb br du s
  | .sbb br du => Sys2Proof.Machine.execSbb br du s
  | .mb br du => Sys2Proof.Machine.execMb br du s
  | .db br du => Sys2Proof.Machine.execDb br du s
  | .fab br du => Sys2Proof.Machine.execFab br du s
  | .fsb br du => Sys2Proof.Machine.execFsb br du s
  | .fmb br du => Sys2Proof.Machine.execFmb br du s
  | .fdb br du => Sys2Proof.Machine.execFdb br du s
  | .orb br du => Sys2Proof.Machine.execOrb br du s
  | .andb br du => Sys2Proof.Machine.execAndb br du s
  | .cb br du => Sys2Proof.Machine.execCb br du s
  | .fcb br du => Sys2Proof.Machine.execFcb br du s
  | .lbx br rx => Sys2Proof.Machine.execLbx br rx s
  | .dlbx br rx => Sys2Proof.Machine.execDlbx br rx s
  | .stbx br rx => Sys2Proof.Machine.execStbx br rx s
  | .dstx br rx => Sys2Proof.Machine.execDstx br rx s
  | .abx br rx => Sys2Proof.Machine.execAbx br rx s
  | .sbbx br rx => Sys2Proof.Machine.execSbbx br rx s
  | .mbx br rx => Sys2Proof.Machine.execMbx br rx s
  | .dbx br rx => Sys2Proof.Machine.execDbx br rx s
  | .fabx br rx => Sys2Proof.Machine.execFabx br rx s
  | .fsbx br rx => Sys2Proof.Machine.execFsbx br rx s
  | .fmbx br rx => Sys2Proof.Machine.execFmbx br rx s
  | .fdbx br rx => Sys2Proof.Machine.execFdbx br rx s
  | .cbx br rx => Sys2Proof.Machine.execCbx br rx s
  | .fcbx br rx => Sys2Proof.Machine.execFcbx br rx s
  | .andx br rx => Sys2Proof.Machine.execAndx br rx s
  | .orbx br rx => Sys2Proof.Machine.execOrbx br rx s
  | .xio ra cmd rx => Sys2Proof.Machine.execXio ra cmd rx s
  | .vio ra addr rx => Sys2Proof.Machine.execVio ra addr rx s
  | .aim ra data => Sys2Proof.Machine.execAim ra data s
  | .sim ra data => Sys2Proof.Machine.execSim ra data s
  | .mim ra data => Sys2Proof.Machine.execMim ra data s
  | .msim ra data => Sys2Proof.Machine.execMsim ra data s
  | .dim ra data => Sys2Proof.Machine.execDim ra data s
  | .dvim ra data => Sys2Proof.Machine.execDvim ra data s
  | .andm ra data => Sys2Proof.Machine.execAndm ra data s
  | .orim ra data => Sys2Proof.Machine.execOrim ra data s
  | .xorm ra data => Sys2Proof.Machine.execXorm ra data s
  | .cim ra data => Sys2Proof.Machine.execCim ra data s
  | .nim ra data => Sys2Proof.Machine.execNim ra data s
  | .sb n addr rx => Sys2Proof.Machine.execSb n addr rx s
  | .sbr n rb => Sys2Proof.Machine.execSbr n rb s
  | .sbi n addr rx => Sys2Proof.Machine.execSbi n addr rx s
  | .rb n addr rx => Sys2Proof.Machine.execRb n addr rx s
  | .rbr n rb => Sys2Proof.Machine.execRbr n rb s
  | .rbi n addr rx => Sys2Proof.Machine.execRbi n addr rx s
  | .tb n addr rx => Sys2Proof.Machine.execTb n addr rx s
  | .tbr n rb => Sys2Proof.Machine.execTbr n rb s
  | .tbi n addr rx => Sys2Proof.Machine.execTbi n addr rx s
  | .tsb n addr rx => Sys2Proof.Machine.execTsb n addr rx s
  | .svbr ra rb => Sys2Proof.Machine.execSvbr ra rb s
  | .rvbr ra rb => Sys2Proof.Machine.execRvbr ra rb s
  | .tvbr ra rb => Sys2Proof.Machine.execTvbr ra rb s
  | .sll rb n => Sys2Proof.Machine.execSll rb n s
  | .srl rb n => Sys2Proof.Machine.execSrl rb n s
  | .sra rb n => Sys2Proof.Machine.execSra rb n s
  | .slc rb n => Sys2Proof.Machine.execSlc rb n s
  | .dsll rb n => Sys2Proof.Machine.execDsll rb n s
  | .dsrl rb n => Sys2Proof.Machine.execDsrl rb n s
  | .dsra rb n => Sys2Proof.Machine.execDsra rb n s
  | .dslc rb n => Sys2Proof.Machine.execDslc rb n s
  | .slr ra rb => Sys2Proof.Machine.execSlr ra rb s
  | .sar ra rb => Sys2Proof.Machine.execSar ra rb s
  | .scr ra rb => Sys2Proof.Machine.execScr ra rb s
  | .dslr ra rb => Sys2Proof.Machine.execDslr ra rb s
  | .dsar ra rb => Sys2Proof.Machine.execDsar ra rb s
  | .dscr ra rb => Sys2Proof.Machine.execDscr ra rb s
  | .jc c addr rx => Sys2Proof.Machine.execJc c addr rx s
  | .jci c addr rx => Sys2Proof.Machine.execJci c addr rx s
  | .js ra addr rx => Sys2Proof.Machine.execJs ra addr rx s
  | .soj ra addr rx => Sys2Proof.Machine.execSoj ra addr rx s
  | .br d => Sys2Proof.Machine.execBr d s
  | .bez d => Sys2Proof.Machine.execBez d s
  | .blt d => Sys2Proof.Machine.execBlt d s
  | .bex n => Sys2Proof.Machine.execBex n s
  | .ble d => Sys2Proof.Machine.execBle d s
  | .bgt d => Sys2Proof.Machine.execBgt d s
  | .bnz d => Sys2Proof.Machine.execBnz d s
  | .bge d => Sys2Proof.Machine.execBge d s
  | .lsti addr rx => Sys2Proof.Machine.execLsti addr rx s
  | .lst addr rx => Sys2Proof.Machine.execLst addr rx s
  | .sjs ra addr rx => Sys2Proof.Machine.execSjs ra addr rx s
  | .urs ra => Sys2Proof.Machine.execUrs ra s
  | .l ra addr rx => Sys2Proof.Machine.execL ra addr rx s
  | .lr ra rb => Sys2Proof.Machine.execLr ra rb s
  | .lisp ra n => Sys2Proof.Machine.execLisp ra n s
  | .lisn ra n => Sys2Proof.Machine.execLisn ra n s
  | .li ra addr rx => Sys2Proof.Machine.execLi ra addr rx s
  | .lim ra data rx => Sys2Proof.Machine.execLim ra data rx s
  | .dl ra addr rx => Sys2Proof.Machine.execDl ra addr rx s
  | .dlr ra rb => Sys2Proof.Machine.execDlr ra rb s
  | .dli ra addr rx => Sys2Proof.Machine.execDli ra addr rx s
  | .lm n addr rx => Sys2Proof.Machine.execLm n addr rx s
  | .efl ra addr rx => Sys2Proof.Machine.execEfl ra addr rx s
  | .lub ra addr rx => Sys2Proof.Machine.execLub ra addr rx s
  | .llb ra addr rx => Sys2Proof.Machine.execLlb ra addr rx s
  | .lubi ra addr rx => Sys2Proof.Machine.execLubi ra addr rx s
  | .llbi ra addr rx => Sys2Proof.Machine.execLlbi ra addr rx s
  | .popm ra rb => Sys2Proof.Machine.execPopm ra rb s
  | .st ra addr rx => Sys2Proof.Machine.execSt ra addr rx s
  | .stc n addr rx => Sys2Proof.Machine.execStc n addr rx s
  | .stci n addr rx => Sys2Proof.Machine.execStci n addr rx s
  | .mov ra rb => Sys2Proof.Machine.execMov ra rb s
  | .sti ra addr rx => Sys2Proof.Machine.execSti ra addr rx s
  | .dst ra addr rx => Sys2Proof.Machine.execDst ra addr rx s
  | .srm ra addr rx => Sys2Proof.Machine.execSrm ra addr rx s
  | .dsti ra addr rx => Sys2Proof.Machine.execDsti ra addr rx s
  | .stm n addr rx => Sys2Proof.Machine.execStm n addr rx s
  | .efst ra addr rx => Sys2Proof.Machine.execEfst ra addr rx s
  | .stub ra addr rx => Sys2Proof.Machine.execStub ra addr rx s
  | .stlb ra addr rx => Sys2Proof.Machine.execStlb ra addr rx s
  | .subi ra addr rx => Sys2Proof.Machine.execSubi ra addr rx s
  | .slbi ra addr rx => Sys2Proof.Machine.execSlbi ra addr rx s
  | .pshm ra rb => Sys2Proof.Machine.execPshm ra rb s
  | .a ra addr rx => Sys2Proof.Machine.execA ra addr rx s
  | .ar ra rb => Sys2Proof.Machine.execAr ra rb s
  | .aisp ra n => Sys2Proof.Machine.execAisp ra n s
  | .incm n addr rx => Sys2Proof.Machine.execIncm n addr rx s
  | .abs ra rb => Sys2Proof.Machine.execAbs ra rb s
  | .dabs ra rb => Sys2Proof.Machine.execDabs ra rb s
  | .da ra addr rx => Sys2Proof.Machine.execDa ra addr rx s
  | .dar ra rb => Sys2Proof.Machine.execDar ra rb s
  | .fa ra addr rx => Sys2Proof.Machine.execFa ra addr rx s
  | .far ra rb => Sys2Proof.Machine.execFar ra rb s
  | .efa ra addr rx => Sys2Proof.Machine.execEfa ra addr rx s
  | .efar ra rb => Sys2Proof.Machine.execEfar ra rb s
  | .fabs ra rb => Sys2Proof.Machine.execFabs ra rb s
  | .s ra addr rx => Sys2Proof.Machine.execS ra addr rx s
  | .sr ra rb => Sys2Proof.Machine.execSr ra rb s
  | .sisp ra n => Sys2Proof.Machine.execSisp ra n s
  | .decm n addr rx => Sys2Proof.Machine.execDecm n addr rx s
  | .neg ra rb => Sys2Proof.Machine.execNeg ra rb s
  | .dneg ra rb => Sys2Proof.Machine.execDneg ra rb s
  | .ds ra addr rx => Sys2Proof.Machine.execDs ra addr rx s
  | .dsr ra rb => Sys2Proof.Machine.execDsr ra rb s
  | .fs ra addr rx => Sys2Proof.Machine.execFs ra addr rx s
  | .fsr ra rb => Sys2Proof.Machine.execFsr ra rb s
  | .efs ra addr rx => Sys2Proof.Machine.execEfs ra addr rx s
  | .efsr ra rb => Sys2Proof.Machine.execEfsr ra rb s
  | .fneg ra rb => Sys2Proof.Machine.execFneg ra rb s
  | .ms ra addr rx => Sys2Proof.Machine.execMs ra addr rx s
  | .msr ra rb => Sys2Proof.Machine.execMsr ra rb s
  | .misp ra n => Sys2Proof.Machine.execMisp ra n s
  | .misn ra n => Sys2Proof.Machine.execMisn ra n s
  | .m ra addr rx => Sys2Proof.Machine.execM ra addr rx s
  | .mr ra rb => Sys2Proof.Machine.execMr ra rb s
  | .dm ra addr rx => Sys2Proof.Machine.execDm ra addr rx s
  | .dmr ra rb => Sys2Proof.Machine.execDmr ra rb s
  | .fm ra addr rx => Sys2Proof.Machine.execFm ra addr rx s
  | .fmr ra rb => Sys2Proof.Machine.execFmr ra rb s
  | .efm ra addr rx => Sys2Proof.Machine.execEfm ra addr rx s
  | .efmr ra rb => Sys2Proof.Machine.execEfmr ra rb s
  | .dv ra addr rx => Sys2Proof.Machine.execDv ra addr rx s
  | .dvr ra rb => Sys2Proof.Machine.execDvr ra rb s
  | .disp ra n => Sys2Proof.Machine.execDisp ra n s
  | .disn ra n => Sys2Proof.Machine.execDisn ra n s
  | .d ra addr rx => Sys2Proof.Machine.execD ra addr rx s
  | .dr ra rb => Sys2Proof.Machine.execDr ra rb s
  | .dd ra addr rx => Sys2Proof.Machine.execDd ra addr rx s
  | .ddr ra rb => Sys2Proof.Machine.execDdr ra rb s
  | .fd ra addr rx => Sys2Proof.Machine.execFd ra addr rx s
  | .fdr ra rb => Sys2Proof.Machine.execFdr ra rb s
  | .efd ra addr rx => Sys2Proof.Machine.execEfd ra addr rx s
  | .efdr ra rb => Sys2Proof.Machine.execEfdr ra rb s
  | .or ra addr rx => Sys2Proof.Machine.execOr ra addr rx s
  | .orr ra rb => Sys2Proof.Machine.execOrr ra rb s
  | .and ra addr rx => Sys2Proof.Machine.execAnd ra addr rx s
  | .andr ra rb => Sys2Proof.Machine.execAndr ra rb s
  | .xor ra addr rx => Sys2Proof.Machine.execXor ra addr rx s
  | .xorr ra rb => Sys2Proof.Machine.execXorr ra rb s
  | .n ra addr rx => Sys2Proof.Machine.execN ra addr rx s
  | .nr ra rb => Sys2Proof.Machine.execNr ra rb s
  | .fix ra rb => Sys2Proof.Machine.execFix ra rb s
  | .flt ra rb => Sys2Proof.Machine.execFlt ra rb s
  | .efix ra rb => Sys2Proof.Machine.execEfix ra rb s
  | .eflt ra rb => Sys2Proof.Machine.execEflt ra rb s
  | .xbr ra => Sys2Proof.Machine.execXbr ra s
  | .xwr ra rb => Sys2Proof.Machine.execXwr ra rb s
  | .c ra addr rx => Sys2Proof.Machine.execC ra addr rx s
  | .cr ra rb => Sys2Proof.Machine.execCr ra rb s
  | .cisp ra n => Sys2Proof.Machine.execCisp ra n s
  | .cisn ra n => Sys2Proof.Machine.execCisn ra n s
  | .cbl ra addr rx => Sys2Proof.Machine.execCbl ra addr rx s
  | .dc ra addr rx => Sys2Proof.Machine.execDc ra addr rx s
  | .dcr ra rb => Sys2Proof.Machine.execDcr ra rb s
  | .fc ra addr rx => Sys2Proof.Machine.execFc ra addr rx s
  | .fcr ra rb => Sys2Proof.Machine.execFcr ra rb s
  | .efc ra addr rx => Sys2Proof.Machine.execEfc ra addr rx s
  | .efcr ra rb => Sys2Proof.Machine.execEfcr ra rb s
  | .nop => Sys2Proof.Machine.execNop s
  | .bpt => Sys2Proof.Machine.execBpt s

end Sys2Proof.Machine
end

