-- ==== Sys2Proof/WellFormed.lean ====
section
/-! DEFINITION. Which instructions can exist: a count lies in 1 to 16 (30_encoding.md R187, R216) and a base
register is one of R12 to R15 (10_state.md R52 (b), 30_encoding.md R175). Every other operand has exactly the values
its field has. -/

namespace Sys2Proof

/-- A count that an instruction can hold: 1 to 16 (30_encoding.md R187, R216). -/
def countOk (n : Nat) : Bool := 1 ≤ n && n ≤ 16

/-- A register that can be a base register: R12 to R15 (10_state.md R52 (b)). -/
def baseOk (br : Reg) : Bool := 12#4 ≤ br

/-- An instruction that some words encode. -/
def wellFormed (i : Instr) : Bool :=
  match i with
  | .lb br _ => baseOk br
  | .dlb br _ => baseOk br
  | .stb br _ => baseOk br
  | .dstb br _ => baseOk br
  | .ab br _ => baseOk br
  | .sbb br _ => baseOk br
  | .mb br _ => baseOk br
  | .db br _ => baseOk br
  | .fab br _ => baseOk br
  | .fsb br _ => baseOk br
  | .fmb br _ => baseOk br
  | .fdb br _ => baseOk br
  | .orb br _ => baseOk br
  | .andb br _ => baseOk br
  | .cb br _ => baseOk br
  | .fcb br _ => baseOk br
  | .lbx br _ => baseOk br
  | .dlbx br _ => baseOk br
  | .stbx br _ => baseOk br
  | .dstx br _ => baseOk br
  | .abx br _ => baseOk br
  | .sbbx br _ => baseOk br
  | .mbx br _ => baseOk br
  | .dbx br _ => baseOk br
  | .fabx br _ => baseOk br
  | .fsbx br _ => baseOk br
  | .fmbx br _ => baseOk br
  | .fdbx br _ => baseOk br
  | .cbx br _ => baseOk br
  | .fcbx br _ => baseOk br
  | .andx br _ => baseOk br
  | .orbx br _ => baseOk br
  | .xio _ _ _ => true
  | .vio _ _ _ => true
  | .aim _ _ => true
  | .sim _ _ => true
  | .mim _ _ => true
  | .msim _ _ => true
  | .dim _ _ => true
  | .dvim _ _ => true
  | .andm _ _ => true
  | .orim _ _ => true
  | .xorm _ _ => true
  | .cim _ _ => true
  | .nim _ _ => true
  | .sb _ _ _ => true
  | .sbr _ _ => true
  | .sbi _ _ _ => true
  | .rb _ _ _ => true
  | .rbr _ _ => true
  | .rbi _ _ _ => true
  | .tb _ _ _ => true
  | .tbr _ _ => true
  | .tbi _ _ _ => true
  | .tsb _ _ _ => true
  | .svbr _ _ => true
  | .rvbr _ _ => true
  | .tvbr _ _ => true
  | .sll _ n => countOk n
  | .srl _ n => countOk n
  | .sra _ n => countOk n
  | .slc _ n => countOk n
  | .dsll _ n => countOk n
  | .dsrl _ n => countOk n
  | .dsra _ n => countOk n
  | .dslc _ n => countOk n
  | .slr _ _ => true
  | .sar _ _ => true
  | .scr _ _ => true
  | .dslr _ _ => true
  | .dsar _ _ => true
  | .dscr _ _ => true
  | .jc _ _ _ => true
  | .jci _ _ _ => true
  | .js _ _ _ => true
  | .soj _ _ _ => true
  | .br _ => true
  | .bez _ => true
  | .blt _ => true
  | .bex _ => true
  | .ble _ => true
  | .bgt _ => true
  | .bnz _ => true
  | .bge _ => true
  | .lsti _ _ => true
  | .lst _ _ => true
  | .sjs _ _ _ => true
  | .urs _ => true
  | .l _ _ _ => true
  | .lr _ _ => true
  | .lisp _ n => countOk n
  | .lisn _ n => countOk n
  | .li _ _ _ => true
  | .lim _ _ _ => true
  | .dl _ _ _ => true
  | .dlr _ _ => true
  | .dli _ _ _ => true
  | .lm _ _ _ => true
  | .efl _ _ _ => true
  | .lub _ _ _ => true
  | .llb _ _ _ => true
  | .lubi _ _ _ => true
  | .llbi _ _ _ => true
  | .popm _ _ => true
  | .st _ _ _ => true
  | .stc _ _ _ => true
  | .stci _ _ _ => true
  | .mov _ _ => true
  | .sti _ _ _ => true
  | .dst _ _ _ => true
  | .srm _ _ _ => true
  | .dsti _ _ _ => true
  | .stm _ _ _ => true
  | .efst _ _ _ => true
  | .stub _ _ _ => true
  | .stlb _ _ _ => true
  | .subi _ _ _ => true
  | .slbi _ _ _ => true
  | .pshm _ _ => true
  | .a _ _ _ => true
  | .ar _ _ => true
  | .aisp _ n => countOk n
  | .incm n _ _ => countOk n
  | .abs _ _ => true
  | .dabs _ _ => true
  | .da _ _ _ => true
  | .dar _ _ => true
  | .fa _ _ _ => true
  | .far _ _ => true
  | .efa _ _ _ => true
  | .efar _ _ => true
  | .fabs _ _ => true
  | .s _ _ _ => true
  | .sr _ _ => true
  | .sisp _ n => countOk n
  | .decm n _ _ => countOk n
  | .neg _ _ => true
  | .dneg _ _ => true
  | .ds _ _ _ => true
  | .dsr _ _ => true
  | .fs _ _ _ => true
  | .fsr _ _ => true
  | .efs _ _ _ => true
  | .efsr _ _ => true
  | .fneg _ _ => true
  | .ms _ _ _ => true
  | .msr _ _ => true
  | .misp _ n => countOk n
  | .misn _ n => countOk n
  | .m _ _ _ => true
  | .mr _ _ => true
  | .dm _ _ _ => true
  | .dmr _ _ => true
  | .fm _ _ _ => true
  | .fmr _ _ => true
  | .efm _ _ _ => true
  | .efmr _ _ => true
  | .dv _ _ _ => true
  | .dvr _ _ => true
  | .disp _ n => countOk n
  | .disn _ n => countOk n
  | .d _ _ _ => true
  | .dr _ _ => true
  | .dd _ _ _ => true
  | .ddr _ _ => true
  | .fd _ _ _ => true
  | .fdr _ _ => true
  | .efd _ _ _ => true
  | .efdr _ _ => true
  | .or _ _ _ => true
  | .orr _ _ => true
  | .and _ _ _ => true
  | .andr _ _ => true
  | .xor _ _ _ => true
  | .xorr _ _ => true
  | .n _ _ _ => true
  | .nr _ _ => true
  | .fix _ _ => true
  | .flt _ _ => true
  | .efix _ _ => true
  | .eflt _ _ => true
  | .xbr _ => true
  | .xwr _ _ => true
  | .c _ _ _ => true
  | .cr _ _ => true
  | .cisp _ n => countOk n
  | .cisn _ n => countOk n
  | .cbl _ _ _ => true
  | .dc _ _ _ => true
  | .dcr _ _ => true
  | .fc _ _ _ => true
  | .fcr _ _ => true
  | .efc _ _ _ => true
  | .efcr _ _ => true
  | .nop => true
  | .bpt => true

end Sys2Proof
end

