-- ==== Sys2Proof/Decode.lean ====
section
/-! DEFINITION. Decoding an instruction from its words, and encoding one into words, both from the operation code
map of 30_encoding.md R195 to R211. Decoding is total: it answers an instruction or a named reason. -/

namespace Sys2Proof

/-- Why words are not an instruction. -/
inductive Reject where
  /-- The first word is not defined by the standard (30_encoding.md R210, R211). -/
  | undefinedFirstWord
  /-- A list of bytes ended before the instruction did. -/
  | truncated
  deriving DecidableEq, Repr

/-- How the fields of a defined first word, and of the second word if there is one, make an instruction
(30_encoding.md R173 to R178). -/
inductive Form where
  /-- Register-to-register: F1 is the first operand, F2 the second. -/
  | regReg (k : Nibble → Nibble → Instr)
  /-- Register-to-register with an immediate short: F1 is RA, F2 is the count minus one. -/
  | regCount (k : Reg → Nat → Instr)
  /-- Register-to-register with a shift count: F1 is the count minus one, F2 is RB. -/
  | countReg (k : Reg → Nat → Instr)
  /-- Register-to-register with F1 zero: F2 is the operand. -/
  | second (k : Nibble → Instr)
  /-- Register-to-register with F2 zero: F1 is the operand. -/
  | first (k : Nibble → Instr)
  /-- IC relative: the low byte is the displacement. -/
  | relative (k : Byte → Instr)
  /-- Long: F1 is RA, N or C, F2 is RX, the second word the address or operand. -/
  | long (k : Nibble → Word → Reg → Instr)
  /-- Long: F1 is a count minus one, F2 is RX, the second word the address. -/
  | longCount (k : Nat → Word → Reg → Instr)
  /-- Long with F1 zero: F2 is RX, the second word the address. -/
  | longZero (k : Word → Reg → Instr)

/-- The first byte of a first word, `OP` (30_encoding.md R170). -/
def opByte (w0 : Word) : Byte := w0.extractLsb' 8 8

/-- Field F1 of a first word, source bits 8 to 11 (30_encoding.md R170). -/
def fieldOne (w0 : Word) : Nibble := w0.extractLsb' 4 4

/-- Field F2 of a first word, source bits 12 to 15 (30_encoding.md R170). -/
def fieldTwo (w0 : Word) : Nibble := w0.extractLsb' 0 4

/-- The low byte of a first word, a displacement (30_encoding.md R174, R175). -/
def lowByte (w0 : Word) : Byte := w0.extractLsb' 0 8

/-- The base register that the two bits BR of a first word name: 12 + BR (30_encoding.md R175). -/
def baseField (w0 : Word) : Reg := 3#2 ++ w0.extractLsb' 8 2

/-- The base relative instructions, by the low four bits of the six bit operation code (30_encoding.md R196). -/
def baseTable (op : Nibble) : Reg → Byte → Instr :=
  match op.toNat with
  | 0 => .lb
  | 1 => .dlb
  | 2 => .stb
  | 3 => .dstb
  | 4 => .ab
  | 5 => .sbb
  | 6 => .mb
  | 7 => .db
  | 8 => .fab
  | 9 => .fsb
  | 10 => .fmb
  | 11 => .fdb
  | 12 => .orb
  | 13 => .andb
  | 14 => .cb
  | _ => .fcb

/-- The base relative indexed instructions, by the operation code extension (30_encoding.md R197). -/
def baseIndexedTable (ext : Nibble) : Reg → Reg → Instr :=
  match ext.toNat with
  | 0 => .lbx
  | 1 => .dlbx
  | 2 => .stbx
  | 3 => .dstx
  | 4 => .abx
  | 5 => .sbbx
  | 6 => .mbx
  | 7 => .dbx
  | 8 => .fabx
  | 9 => .fsbx
  | 10 => .fmbx
  | 11 => .fdbx
  | 12 => .cbx
  | 13 => .fcbx
  | 14 => .andx
  | _ => .orbx

/-- The immediate instructions of first byte 4A, by the operation code extension (30_encoding.md R198). -/
def immediateTable (ext : Nibble) : Option (Reg → Word → Instr) :=
  match ext.toNat with
  | 1 => some .aim
  | 2 => some .sim
  | 3 => some .mim
  | 4 => some .msim
  | 5 => some .dim
  | 6 => some .dvim
  | 7 => some .andm
  | 8 => some .orim
  | 9 => some .xorm
  | 10 => some .cim
  | 11 => some .nim
  | _ => none

/-- The instructions that a first byte from 48 to FB selects by itself (30_encoding.md R198 to R209). -/
def opTable (op : Byte) : Option Form :=
  match op.toNat with
  | 0x48 => some (.long .xio)
  | 0x49 => some (.long .vio)
  | 0x50 => some (.long .sb)
  | 0x51 => some (.regReg .sbr)
  | 0x52 => some (.long .sbi)
  | 0x53 => some (.long .rb)
  | 0x54 => some (.regReg .rbr)
  | 0x55 => some (.long .rbi)
  | 0x56 => some (.long .tb)
  | 0x57 => some (.regReg .tbr)
  | 0x58 => some (.long .tbi)
  | 0x59 => some (.long .tsb)
  | 0x5A => some (.regReg .svbr)
  | 0x5C => some (.regReg .rvbr)
  | 0x5E => some (.regReg .tvbr)
  | 0x60 => some (.countReg .sll)
  | 0x61 => some (.countReg .srl)
  | 0x62 => some (.countReg .sra)
  | 0x63 => some (.countReg .slc)
  | 0x65 => some (.countReg .dsll)
  | 0x66 => some (.countReg .dsrl)
  | 0x67 => some (.countReg .dsra)
  | 0x68 => some (.countReg .dslc)
  | 0x6A => some (.regReg .slr)
  | 0x6B => some (.regReg .sar)
  | 0x6C => some (.regReg .scr)
  | 0x6D => some (.regReg .dslr)
  | 0x6E => some (.regReg .dsar)
  | 0x6F => some (.regReg .dscr)
  | 0x70 => some (.long .jc)
  | 0x71 => some (.long .jci)
  | 0x72 => some (.long .js)
  | 0x73 => some (.long .soj)
  | 0x74 => some (.relative .br)
  | 0x75 => some (.relative .bez)
  | 0x76 => some (.relative .blt)
  | 0x77 => some (.second .bex)
  | 0x78 => some (.relative .ble)
  | 0x79 => some (.relative .bgt)
  | 0x7A => some (.relative .bnz)
  | 0x7B => some (.relative .bge)
  | 0x7C => some (.longZero .lsti)
  | 0x7D => some (.longZero .lst)
  | 0x7E => some (.long .sjs)
  | 0x7F => some (.first .urs)
  | 0x80 => some (.long .l)
  | 0x81 => some (.regReg .lr)
  | 0x82 => some (.regCount .lisp)
  | 0x83 => some (.regCount .lisn)
  | 0x84 => some (.long .li)
  | 0x85 => some (.long .lim)
  | 0x86 => some (.long .dl)
  | 0x87 => some (.regReg .dlr)
  | 0x88 => some (.long .dli)
  | 0x89 => some (.long .lm)
  | 0x8A => some (.long .efl)
  | 0x8B => some (.long .lub)
  | 0x8C => some (.long .llb)
  | 0x8D => some (.long .lubi)
  | 0x8E => some (.long .llbi)
  | 0x8F => some (.regReg .popm)
  | 0x90 => some (.long .st)
  | 0x91 => some (.long .stc)
  | 0x92 => some (.long .stci)
  | 0x93 => some (.regReg .mov)
  | 0x94 => some (.long .sti)
  | 0x96 => some (.long .dst)
  | 0x97 => some (.long .srm)
  | 0x98 => some (.long .dsti)
  | 0x99 => some (.long .stm)
  | 0x9A => some (.long .efst)
  | 0x9B => some (.long .stub)
  | 0x9C => some (.long .stlb)
  | 0x9D => some (.long .subi)
  | 0x9E => some (.long .slbi)
  | 0x9F => some (.regReg .pshm)
  | 0xA0 => some (.long .a)
  | 0xA1 => some (.regReg .ar)
  | 0xA2 => some (.regCount .aisp)
  | 0xA3 => some (.longCount .incm)
  | 0xA4 => some (.regReg .abs)
  | 0xA5 => some (.regReg .dabs)
  | 0xA6 => some (.long .da)
  | 0xA7 => some (.regReg .dar)
  | 0xA8 => some (.long .fa)
  | 0xA9 => some (.regReg .far)
  | 0xAA => some (.long .efa)
  | 0xAB => some (.regReg .efar)
  | 0xAC => some (.regReg .fabs)
  | 0xB0 => some (.long .s)
  | 0xB1 => some (.regReg .sr)
  | 0xB2 => some (.regCount .sisp)
  | 0xB3 => some (.longCount .decm)
  | 0xB4 => some (.regReg .neg)
  | 0xB5 => some (.regReg .dneg)
  | 0xB6 => some (.long .ds)
  | 0xB7 => some (.regReg .dsr)
  | 0xB8 => some (.long .fs)
  | 0xB9 => some (.regReg .fsr)
  | 0xBA => some (.long .efs)
  | 0xBB => some (.regReg .efsr)
  | 0xBC => some (.regReg .fneg)
  | 0xC0 => some (.long .ms)
  | 0xC1 => some (.regReg .msr)
  | 0xC2 => some (.regCount .misp)
  | 0xC3 => some (.regCount .misn)
  | 0xC4 => some (.long .m)
  | 0xC5 => some (.regReg .mr)
  | 0xC6 => some (.long .dm)
  | 0xC7 => some (.regReg .dmr)
  | 0xC8 => some (.long .fm)
  | 0xC9 => some (.regReg .fmr)
  | 0xCA => some (.long .efm)
  | 0xCB => some (.regReg .efmr)
  | 0xD0 => some (.long .dv)
  | 0xD1 => some (.regReg .dvr)
  | 0xD2 => some (.regCount .disp)
  | 0xD3 => some (.regCount .disn)
  | 0xD4 => some (.long .d)
  | 0xD5 => some (.regReg .dr)
  | 0xD6 => some (.long .dd)
  | 0xD7 => some (.regReg .ddr)
  | 0xD8 => some (.long .fd)
  | 0xD9 => some (.regReg .fdr)
  | 0xDA => some (.long .efd)
  | 0xDB => some (.regReg .efdr)
  | 0xE0 => some (.long .or)
  | 0xE1 => some (.regReg .orr)
  | 0xE2 => some (.long .and)
  | 0xE3 => some (.regReg .andr)
  | 0xE4 => some (.long .xor)
  | 0xE5 => some (.regReg .xorr)
  | 0xE6 => some (.long .n)
  | 0xE7 => some (.regReg .nr)
  | 0xE8 => some (.regReg .fix)
  | 0xE9 => some (.regReg .flt)
  | 0xEA => some (.regReg .efix)
  | 0xEB => some (.regReg .eflt)
  | 0xEC => some (.first .xbr)
  | 0xED => some (.regReg .xwr)
  | 0xF0 => some (.long .c)
  | 0xF1 => some (.regReg .cr)
  | 0xF2 => some (.regCount .cisp)
  | 0xF3 => some (.regCount .cisn)
  | 0xF4 => some (.long .cbl)
  | 0xF6 => some (.long .dc)
  | 0xF7 => some (.regReg .dcr)
  | 0xF8 => some (.long .fc)
  | 0xF9 => some (.regReg .fcr)
  | 0xFA => some (.long .efc)
  | 0xFB => some (.regReg .efcr)
  | _ => none

/-- The instruction that a form makes of the two words, none where a field printed as zero is not
(30_encoding.md R211). A count field holds the count minus one (R187, R216). -/
def Form.build (f : Form) (w0 w1 : Word) : Option Instr :=
  match f with
  | .regReg k => some (k (fieldOne w0) (fieldTwo w0))
  | .regCount k => some (k (fieldOne w0) ((fieldTwo w0).toNat + 1))
  | .countReg k => some (k (fieldTwo w0) ((fieldOne w0).toNat + 1))
  | .second k => if fieldOne w0 = 0#4 then some (k (fieldTwo w0)) else none
  | .first k => if fieldTwo w0 = 0#4 then some (k (fieldOne w0)) else none
  | .relative k => some (k (lowByte w0))
  | .long k => some (k (fieldOne w0) w1 (fieldTwo w0))
  | .longCount k => some (k ((fieldOne w0).toNat + 1) w1 (fieldTwo w0))
  | .longZero k => if fieldOne w0 = 0#4 then some (k w1 (fieldTwo w0)) else none

/-- The instruction that two words encode, none if the first word is not defined; the second word is used by a
two word instruction only (30_encoding.md R179). -/
def decode (w0 w1 : Word) : Option Instr :=
  if w0.extractLsb' 14 2 = 0#2 then some (baseTable (w0.extractLsb' 10 4) (baseField w0) (lowByte w0))
  else if w0.extractLsb' 10 6 = 16#6 then some (baseIndexedTable (fieldOne w0) (baseField w0) (fieldTwo w0))
  else if opByte w0 = 0x4A#8 then (immediateTable (fieldTwo w0)).map fun k => k (fieldOne w0) w1
  else if opByte w0 = 0xFF#8 then
    if lowByte w0 = 0x00#8 then some .nop else if lowByte w0 = 0xFF#8 then some .bpt else none
  else (opTable (opByte w0)).bind fun f => f.build w0 w1

/-- The first bytes of the two word instructions (30_encoding.md R172). -/
def longOps : List Nat :=
  [0x48, 0x49, 0x4A, 0x50, 0x52, 0x53, 0x55, 0x56, 0x58, 0x59, 0x70, 0x71, 0x72, 0x73, 0x7C, 0x7D, 0x7E]
  ++ [0x80, 0x84, 0x85, 0x86, 0x88, 0x89, 0x8A, 0x8B, 0x8C, 0x8D, 0x8E]
  ++ [0x90, 0x91, 0x92, 0x94, 0x96, 0x97, 0x98, 0x99, 0x9A, 0x9B, 0x9C, 0x9D, 0x9E]
  ++ [0xA0, 0xA3, 0xA6, 0xA8, 0xAA, 0xB0, 0xB3, 0xB6, 0xB8, 0xBA, 0xC0, 0xC4, 0xC6, 0xC8, 0xCA]
  ++ [0xD0, 0xD4, 0xD6, 0xD8, 0xDA, 0xE0, 0xE2, 0xE4, 0xE6, 0xF0, 0xF4, 0xF6, 0xF8, 0xFA]

/-- Whether a first word is the first of two (30_encoding.md R172; only asked of a defined first word). -/
def isLong (w0 : Word) : Bool := longOps.contains (opByte w0).toNat

/-- Whether a first word is defined by the standard (30_encoding.md R210, R211). The second word plays no part
in it. -/
def isDefined (w0 : Word) : Bool := (decode w0 0#16).isSome

/-- Decoding from bytes, the upper byte of each word first (30_encoding.md R170, 20_memory.md R113): the
instruction and the bytes after it. -/
def decodeBytes (bytes : List Byte) : Except Reject (Instr × List Byte) :=
  match bytes with
  | a :: b :: rest =>
    let w0 : Word := a ++ b
    if isDefined w0 then
      if isLong w0 then
        match rest with
        | c :: d :: rest => (decode w0 (c ++ d)).elim (.error .undefinedFirstWord) fun i => .ok (i, rest)
        | _ => .error .truncated
      else (decode w0 0#16).elim (.error .undefinedFirstWord) fun i => .ok (i, rest)
    else .error .undefinedFirstWord
  | _ => .error .truncated

/-- Bytes of the words of one instruction as spec/opcode_table.json numbers its bits: bit 0 is the least
significant bit of the first word and the second word's bits count on from it. Each word lies with its upper byte
first. -/
def tableBytes (nbits w : Nat) : List Byte :=
  let v := w % Nat.pow 2 nbits
  [BitVec.ofNat 8 (v / 256), BitVec.ofNat 8 v, BitVec.ofNat 8 (v / 16777216), BitVec.ofNat 8 (v / 65536)]

/-- The instruction that the decoder reads from the `nbits` bits `w`, every bit above them zero. -/
def decodeTableWord (nbits w : Nat) : Option Instr :=
  match decodeBytes (tableBytes nbits w) with
  | .ok (i, _) => some i
  | .error _ => none

/-- A register-to-register first word (30_encoding.md R173). -/
def wordOf (op : Byte) (f1 f2 : Nibble) : Word := op ++ f1 ++ f2

/-- An IC relative first word (30_encoding.md R174). -/
def wordOfByte (op : Byte) (d : Byte) : Word := op ++ d

/-- A base relative first word: the six bit operation code, BR = register number - 12, the displacement
(30_encoding.md R175). -/
def wordOfBase (op : BitVec 6) (br : Reg) (du : Byte) : Word := op ++ br.extractLsb' 0 2 ++ du

/-- A base relative indexed first word (30_encoding.md R176). -/
def wordOfBaseIndexed (ext : Nibble) (br rx : Reg) : Word := 16#6 ++ br.extractLsb' 0 2 ++ ext ++ rx

/-- The field of a count of 1 to 16: the count minus one (30_encoding.md R187, R216). -/
def countField (n : Nat) : Nibble := BitVec.ofNat 4 (n - 1)

/-- The words of a well-formed instruction (30_encoding.md R196 to R209). -/
def encode (i : Instr) : List Word :=
  match i with
  | .lb br du => [wordOfBase 0 br du]
  | .dlb br du => [wordOfBase 1 br du]
  | .stb br du => [wordOfBase 2 br du]
  | .dstb br du => [wordOfBase 3 br du]
  | .ab br du => [wordOfBase 4 br du]
  | .sbb br du => [wordOfBase 5 br du]
  | .mb br du => [wordOfBase 6 br du]
  | .db br du => [wordOfBase 7 br du]
  | .fab br du => [wordOfBase 8 br du]
  | .fsb br du => [wordOfBase 9 br du]
  | .fmb br du => [wordOfBase 10 br du]
  | .fdb br du => [wordOfBase 11 br du]
  | .orb br du => [wordOfBase 12 br du]
  | .andb br du => [wordOfBase 13 br du]
  | .cb br du => [wordOfBase 14 br du]
  | .fcb br du => [wordOfBase 15 br du]
  | .lbx br rx => [wordOfBaseIndexed 0 br rx]
  | .dlbx br rx => [wordOfBaseIndexed 1 br rx]
  | .stbx br rx => [wordOfBaseIndexed 2 br rx]
  | .dstx br rx => [wordOfBaseIndexed 3 br rx]
  | .abx br rx => [wordOfBaseIndexed 4 br rx]
  | .sbbx br rx => [wordOfBaseIndexed 5 br rx]
  | .mbx br rx => [wordOfBaseIndexed 6 br rx]
  | .dbx br rx => [wordOfBaseIndexed 7 br rx]
  | .fabx br rx => [wordOfBaseIndexed 8 br rx]
  | .fsbx br rx => [wordOfBaseIndexed 9 br rx]
  | .fmbx br rx => [wordOfBaseIndexed 10 br rx]
  | .fdbx br rx => [wordOfBaseIndexed 11 br rx]
  | .cbx br rx => [wordOfBaseIndexed 12 br rx]
  | .fcbx br rx => [wordOfBaseIndexed 13 br rx]
  | .andx br rx => [wordOfBaseIndexed 14 br rx]
  | .orbx br rx => [wordOfBaseIndexed 15 br rx]
  | .xio r a rx => [wordOf 0x48 r rx, a]
  | .vio r a rx => [wordOf 0x49 r rx, a]
  | .aim ra data => [wordOf 0x4A ra 1, data]
  | .sim ra data => [wordOf 0x4A ra 2, data]
  | .mim ra data => [wordOf 0x4A ra 3, data]
  | .msim ra data => [wordOf 0x4A ra 4, data]
  | .dim ra data => [wordOf 0x4A ra 5, data]
  | .dvim ra data => [wordOf 0x4A ra 6, data]
  | .andm ra data => [wordOf 0x4A ra 7, data]
  | .orim ra data => [wordOf 0x4A ra 8, data]
  | .xorm ra data => [wordOf 0x4A ra 9, data]
  | .cim ra data => [wordOf 0x4A ra 10, data]
  | .nim ra data => [wordOf 0x4A ra 11, data]
  | .sb r a rx => [wordOf 0x50 r rx, a]
  | .sbr a b => [wordOf 0x51 a b]
  | .sbi r a rx => [wordOf 0x52 r rx, a]
  | .rb r a rx => [wordOf 0x53 r rx, a]
  | .rbr a b => [wordOf 0x54 a b]
  | .rbi r a rx => [wordOf 0x55 r rx, a]
  | .tb r a rx => [wordOf 0x56 r rx, a]
  | .tbr a b => [wordOf 0x57 a b]
  | .tbi r a rx => [wordOf 0x58 r rx, a]
  | .tsb r a rx => [wordOf 0x59 r rx, a]
  | .svbr a b => [wordOf 0x5A a b]
  | .rvbr a b => [wordOf 0x5C a b]
  | .tvbr a b => [wordOf 0x5E a b]
  | .sll rb n => [wordOf 0x60 (countField n) rb]
  | .srl rb n => [wordOf 0x61 (countField n) rb]
  | .sra rb n => [wordOf 0x62 (countField n) rb]
  | .slc rb n => [wordOf 0x63 (countField n) rb]
  | .dsll rb n => [wordOf 0x65 (countField n) rb]
  | .dsrl rb n => [wordOf 0x66 (countField n) rb]
  | .dsra rb n => [wordOf 0x67 (countField n) rb]
  | .dslc rb n => [wordOf 0x68 (countField n) rb]
  | .slr a b => [wordOf 0x6A a b]
  | .sar a b => [wordOf 0x6B a b]
  | .scr a b => [wordOf 0x6C a b]
  | .dslr a b => [wordOf 0x6D a b]
  | .dsar a b => [wordOf 0x6E a b]
  | .dscr a b => [wordOf 0x6F a b]
  | .jc r a rx => [wordOf 0x70 r rx, a]
  | .jci r a rx => [wordOf 0x71 r rx, a]
  | .js r a rx => [wordOf 0x72 r rx, a]
  | .soj r a rx => [wordOf 0x73 r rx, a]
  | .br d => [wordOfByte 0x74 d]
  | .bez d => [wordOfByte 0x75 d]
  | .blt d => [wordOfByte 0x76 d]
  | .bex n => [wordOf 0x77 0 n]
  | .ble d => [wordOfByte 0x78 d]
  | .bgt d => [wordOfByte 0x79 d]
  | .bnz d => [wordOfByte 0x7A d]
  | .bge d => [wordOfByte 0x7B d]
  | .lsti a rx => [wordOf 0x7C 0 rx, a]
  | .lst a rx => [wordOf 0x7D 0 rx, a]
  | .sjs r a rx => [wordOf 0x7E r rx, a]
  | .urs ra => [wordOf 0x7F ra 0]
  | .l r a rx => [wordOf 0x80 r rx, a]
  | .lr a b => [wordOf 0x81 a b]
  | .lisp ra n => [wordOf 0x82 ra (countField n)]
  | .lisn ra n => [wordOf 0x83 ra (countField n)]
  | .li r a rx => [wordOf 0x84 r rx, a]
  | .lim r a rx => [wordOf 0x85 r rx, a]
  | .dl r a rx => [wordOf 0x86 r rx, a]
  | .dlr a b => [wordOf 0x87 a b]
  | .dli r a rx => [wordOf 0x88 r rx, a]
  | .lm r a rx => [wordOf 0x89 r rx, a]
  | .efl r a rx => [wordOf 0x8A r rx, a]
  | .lub r a rx => [wordOf 0x8B r rx, a]
  | .llb r a rx => [wordOf 0x8C r rx, a]
  | .lubi r a rx => [wordOf 0x8D r rx, a]
  | .llbi r a rx => [wordOf 0x8E r rx, a]
  | .popm a b => [wordOf 0x8F a b]
  | .st r a rx => [wordOf 0x90 r rx, a]
  | .stc r a rx => [wordOf 0x91 r rx, a]
  | .stci r a rx => [wordOf 0x92 r rx, a]
  | .mov a b => [wordOf 0x93 a b]
  | .sti r a rx => [wordOf 0x94 r rx, a]
  | .dst r a rx => [wordOf 0x96 r rx, a]
  | .srm r a rx => [wordOf 0x97 r rx, a]
  | .dsti r a rx => [wordOf 0x98 r rx, a]
  | .stm r a rx => [wordOf 0x99 r rx, a]
  | .efst r a rx => [wordOf 0x9A r rx, a]
  | .stub r a rx => [wordOf 0x9B r rx, a]
  | .stlb r a rx => [wordOf 0x9C r rx, a]
  | .subi r a rx => [wordOf 0x9D r rx, a]
  | .slbi r a rx => [wordOf 0x9E r rx, a]
  | .pshm a b => [wordOf 0x9F a b]
  | .a r a rx => [wordOf 0xA0 r rx, a]
  | .ar a b => [wordOf 0xA1 a b]
  | .aisp ra n => [wordOf 0xA2 ra (countField n)]
  | .incm n a rx => [wordOf 0xA3 (countField n) rx, a]
  | .abs a b => [wordOf 0xA4 a b]
  | .dabs a b => [wordOf 0xA5 a b]
  | .da r a rx => [wordOf 0xA6 r rx, a]
  | .dar a b => [wordOf 0xA7 a b]
  | .fa r a rx => [wordOf 0xA8 r rx, a]
  | .far a b => [wordOf 0xA9 a b]
  | .efa r a rx => [wordOf 0xAA r rx, a]
  | .efar a b => [wordOf 0xAB a b]
  | .fabs a b => [wordOf 0xAC a b]
  | .s r a rx => [wordOf 0xB0 r rx, a]
  | .sr a b => [wordOf 0xB1 a b]
  | .sisp ra n => [wordOf 0xB2 ra (countField n)]
  | .decm n a rx => [wordOf 0xB3 (countField n) rx, a]
  | .neg a b => [wordOf 0xB4 a b]
  | .dneg a b => [wordOf 0xB5 a b]
  | .ds r a rx => [wordOf 0xB6 r rx, a]
  | .dsr a b => [wordOf 0xB7 a b]
  | .fs r a rx => [wordOf 0xB8 r rx, a]
  | .fsr a b => [wordOf 0xB9 a b]
  | .efs r a rx => [wordOf 0xBA r rx, a]
  | .efsr a b => [wordOf 0xBB a b]
  | .fneg a b => [wordOf 0xBC a b]
  | .ms r a rx => [wordOf 0xC0 r rx, a]
  | .msr a b => [wordOf 0xC1 a b]
  | .misp ra n => [wordOf 0xC2 ra (countField n)]
  | .misn ra n => [wordOf 0xC3 ra (countField n)]
  | .m r a rx => [wordOf 0xC4 r rx, a]
  | .mr a b => [wordOf 0xC5 a b]
  | .dm r a rx => [wordOf 0xC6 r rx, a]
  | .dmr a b => [wordOf 0xC7 a b]
  | .fm r a rx => [wordOf 0xC8 r rx, a]
  | .fmr a b => [wordOf 0xC9 a b]
  | .efm r a rx => [wordOf 0xCA r rx, a]
  | .efmr a b => [wordOf 0xCB a b]
  | .dv r a rx => [wordOf 0xD0 r rx, a]
  | .dvr a b => [wordOf 0xD1 a b]
  | .disp ra n => [wordOf 0xD2 ra (countField n)]
  | .disn ra n => [wordOf 0xD3 ra (countField n)]
  | .d r a rx => [wordOf 0xD4 r rx, a]
  | .dr a b => [wordOf 0xD5 a b]
  | .dd r a rx => [wordOf 0xD6 r rx, a]
  | .ddr a b => [wordOf 0xD7 a b]
  | .fd r a rx => [wordOf 0xD8 r rx, a]
  | .fdr a b => [wordOf 0xD9 a b]
  | .efd r a rx => [wordOf 0xDA r rx, a]
  | .efdr a b => [wordOf 0xDB a b]
  | .or r a rx => [wordOf 0xE0 r rx, a]
  | .orr a b => [wordOf 0xE1 a b]
  | .and r a rx => [wordOf 0xE2 r rx, a]
  | .andr a b => [wordOf 0xE3 a b]
  | .xor r a rx => [wordOf 0xE4 r rx, a]
  | .xorr a b => [wordOf 0xE5 a b]
  | .n r a rx => [wordOf 0xE6 r rx, a]
  | .nr a b => [wordOf 0xE7 a b]
  | .fix a b => [wordOf 0xE8 a b]
  | .flt a b => [wordOf 0xE9 a b]
  | .efix a b => [wordOf 0xEA a b]
  | .eflt a b => [wordOf 0xEB a b]
  | .xbr ra => [wordOf 0xEC ra 0]
  | .xwr a b => [wordOf 0xED a b]
  | .c r a rx => [wordOf 0xF0 r rx, a]
  | .cr a b => [wordOf 0xF1 a b]
  | .cisp ra n => [wordOf 0xF2 ra (countField n)]
  | .cisn ra n => [wordOf 0xF3 ra (countField n)]
  | .cbl r a rx => [wordOf 0xF4 r rx, a]
  | .dc r a rx => [wordOf 0xF6 r rx, a]
  | .dcr a b => [wordOf 0xF7 a b]
  | .fc r a rx => [wordOf 0xF8 r rx, a]
  | .fcr a b => [wordOf 0xF9 a b]
  | .efc r a rx => [wordOf 0xFA r rx, a]
  | .efcr a b => [wordOf 0xFB a b]
  | .nop => [0xFF00#16]
  | .bpt => [0xFFFF#16]

/-- Decoding a list of words, as `encode` writes them: the first word, and the second where it is there. -/
def decodeWords (ws : List Word) : Option Instr :=
  match ws with
  | [w0] => if isLong w0 then none else decode w0 0#16
  | [w0, w1] => if isLong w0 then decode w0 w1 else none
  | _ => none

end Sys2Proof
end

