-- ==== Sys2Proof/Machine/Events.lean ====
section
/-! DEFINITION. What the events of the environment do (60_exceptions.md R603, R616, R640, R656;
70_reset_and_hazards.md R660 to R666). Every event is total and none aborts anything. -/

namespace Sys2Proof.Machine

/-- The number of a spare interrupt (60_exceptions.md R610). -/
def SpareInterrupt.number (n : SpareInterrupt) : Nat :=
  match n with
  | .two => 2
  | .eight => 8
  | .ten => 10
  | .eleven => 11
  | .thirteen => 13
  | .fifteen => 15

/-- A tick of timer A: it counts if it exists, runs and the processor is not halted, and a count from FFFF to 0000
requests interrupt 7 (60_exceptions.md R640). -/
def State.tickA (s : State) : State :=
  if s.cfg.hasTimers && s.timers.taRun && !s.halted then
    ({ s with timers := { s.timers with ta := s.timers.ta + 1 } } : State).requestIf (s.timers.ta + 1 == 0#16) 7
  else s

/-- A tick of timer B, which requests interrupt 9 (60_exceptions.md R640). -/
def State.tickB (s : State) : State :=
  if s.cfg.hasTimers && s.timers.tbRun && !s.halted then
    ({ s with timers := { s.timers with tb := s.timers.tb + 1 } } : State).requestIf (s.timers.tb + 1 == 0#16) 9
  else s

/-- A tick of the go counter: at its last count the discrete goes low (10_state.md R84; log 8). -/
def State.tickGo (s : State) : State :=
  if s.io.goCount ≤ 1 then { s with io := { s.io with goCount := 0, goHigh := false } }
  else { s with io := { s.io with goCount := s.io.goCount - 1 } }

/-- A request of an input/output channel: interrupt 12 or 14, and the channel in the code register unless it is
frozen (60_exceptions.md R616, R656). -/
def State.ioRequest (s : State) (level : IoLevel) (channel : BitVec 7) : State :=
  match level with
  | .one =>
    if s.cfg.hasIoint1 then
      ({ s with io := { s.io with ioic1 :=
          if s.cfg.hasIoic && !s.io.frz1 then channel.setWidth 16 else s.io.ioic1 } } : State).requestIf true 12
    else s
  | .two =>
    if s.cfg.hasIoint2 then
      ({ s with io := { s.io with ioic2 :=
          if s.cfg.hasIoic && !s.io.frz2 then channel.setWidth 16 else s.io.ioic2 } } : State).requestIf true 14
    else s

/-- The reset state of a machine that exists: everything as `State.reset` has it but memory, the configuration, the
normal power up discrete, the levels of the input lines, what the world outside holds and the schedule
(70_reset_and_hazards.md R660 to R666; log 10). -/
def State.resetMachine (s : State) : State :=
  { State.reset with
    cfg := s.cfg
    mem := s.mem
    badParity := s.badParity
    env := s.env
    bus := s.bus
    freeCount := s.freeCount
    io := { State.reset.io with
      npu := s.io.npu, din := s.io.din, goCount := s.cfg.goPeriod, portOut := s.io.portOut, portIn := s.io.portIn }
    console := { State.reset.console with connected := s.console.connected } }

/-- Power applied: a reset, and the normal power up discrete set where it exists (70_reset_and_hazards.md R660,
R666). -/
def State.powerUp (s : State) : State :=
  { s.resetMachine with io := { s.resetMachine.io with npu := s.io.npu || s.cfg.hasNpu } }

/-- What an event does (60_exceptions.md R656). -/
def State.applyEvent (s : State) (e : Event) : State :=
  match e with
  | .powerDown => s.requestIf true 0
  | .extInterrupt n => s.requestIf true n.number
  | .ioInterrupt level channel => s.ioRequest level channel
  | .tickA => s.tickA
  | .tickB => s.tickB
  | .extFault k => s.recordFault k.bit
  | .dma access => s.dmaAccess access
  | .discreteIn v => { s with io := { s.io with din := v } }
  | .consoleInput b => { s with console := { s.console with input := s.console.input ++ [b] } }
  | .consoleRestart => { s with halted := false }
  | .consoleStatus v => { s with console := { s.console with status := v } }
  | .consoleConnect attached => { s with console := { s.console with connected := attached } }
  | .portInput code w => { s with io := { s.io with portIn := s.io.portIn ++ [(code, w)] } }
  | .goTick => s.tickGo
  | .parityDamage pa => { s with badParity := pa.toNat :: s.badParity.filter fun a => a != pa.toNat }
  | .reset => s.resetMachine
  | .powerUp => s.powerUp

/-- The events scheduled before this step applied, in order (60_exceptions.md R628, R656; log 9). -/
def State.applyEvents (s : State) : State :=
  match s.env with
  | [] => s
  | now :: later => now.foldl State.applyEvent { s with env := later }

end Sys2Proof.Machine
end

