-- ==== Sys2Proof/Machine/Fetch.lean ====
section
/-! DEFINITION. The parts of a step: recognising an interrupt (60_exceptions.md R620 to R623), fetching an
instruction (30_encoding.md R171, 60_exceptions.md R601, R602), and the end of an instruction step
(60_exceptions.md R626, R627); and placing an instruction where the next fetch reads it. -/

namespace Sys2Proof.Machine

/-- The interrupts that may be recognised: pending, not held, not masked unless they cannot be masked, and while
interrupts are disabled only those that cannot be disabled (60_exceptions.md R622). -/
def State.candidates (s : State) : Word :=
  let open_ := s.pir &&& ~~~s.pihold &&& (s.mkr ||| 0x8400#16)
  if s.inten then open_ else open_ &&& 0xC400#16

/-- The interrupt that is recognised: the candidate of the lowest number (60_exceptions.md R623). -/
def State.recognised (s : State) : Option Nat :=
  (List.range 16).find? fun n => (s.candidates &&& bitMask n) != 0#16

/-- The interrupt that is taken at a boundary: the one recognised, and none at the boundary that a BEX holds
(60_exceptions.md R628, 43_jump_branch.md R348; log 29). -/
def State.dueInterrupt (s : State) : Option Nat := if s.atExecutive then none else s.recognised

/-- The next instruction begins: the boundary that a BEX held is past (43_jump_branch.md R348). -/
def State.beginInstruction (s : State) : State := { s with atExecutive := false }

/-- `MemFetch(a)` (20_memory.md R142). -/
def State.fetchWord (s : State) (la : Word) : Reading Word := s.reference ⟨la, .instruction, s.as⟩ s.ps

/-- The abort of a first word that is not an instruction (30_encoding.md R210). -/
def illegalInstruction : Abort := ⟨.illegalInstruction, none⟩

/-- What a fetch answers. -/
inductive Fetched where
  /-- The instruction at IC, and the state after its words are read. -/
  | instruction (i : Instr) (t : State)
  /-- The state after a fetch that faulted, or a first word that is not an instruction. -/
  | aborted (t : State)
  deriving DecidableEq, Repr

/-- The instruction of two words, or the state in which an illegal instruction leaves the machine: one word on
(30_encoding.md R210, 60_exceptions.md R601). -/
def State.decoded (s : State) (w0 w1 : Word) : Fetched :=
  match decode w0 w1 with
  | some i => .instruction i s
  | none => .aborted ((s.advance 1).raiseFault illegalInstruction)

/-- The instruction at IC. A fault on the first word, and a first word that is not defined, leave IC one word on; a
fault on the second word leaves it two words on; the second word of an undefined instruction is not fetched
(30_encoding.md R171, R172; 60_exceptions.md R601, R602). -/
def State.fetch (s : State) : Fetched :=
  match s.fetchWord s.ic with
  | (.error a, t) => .aborted ((t.advance 1).raiseFault a)
  | (.ok w0, t) =>
    if isDefined w0 && isLong w0 then
      match t.fetchWord (s.ic + 1) with
      | (.error a, u) => .aborted ((u.advance 2).raiseFault a)
      | (.ok w1, u) => u.decoded w0 w1
    else t.decoded w0 0#16

/-- The end of an instruction step that began in state `s`: the enable of an ENBL executed before this step, and the
release of the bits held since before it (60_exceptions.md R626, R627, R628). -/
def State.endStep (s t : State) : State :=
  { t with
    inten := t.inten || (s.endly && t.endly)
    endly := t.endly && !s.endly
    pihold := t.pihold &&& ~~~s.pihold }

/-- A word stored where the fetch of a logical address reads it: in the start up ROM if that overlays the physical
address, else in main memory. -/
def State.placeWord (s : State) (la w : Word) : State :=
  let pa := s.physical ⟨la, .instruction, s.as⟩
  if s.romOverlays pa then { s with cfg := { s.cfg with surom := s.cfg.surom.set pa w } }
  else { s with mem := Memory.setWord s.mem pa w }

/-- The instruction whose bits are `w`, numbered as spec/opcode_table.json numbers them, placed where the next fetch
reads it: the low sixteen of its `nbits` bits at IC, the next sixteen at IC + 1, every bit above them zero. -/
def State.placeInstruction (s : State) (nbits w : Nat) : State :=
  let v := w % Nat.pow 2 nbits
  (s.placeWord s.ic (BitVec.ofNat 16 v)).placeWord (s.ic + 1) (BitVec.ofNat 16 (v / 65536))

end Sys2Proof.Machine
end

