-- ==== Sys2Proof/Machine/Step.lean ====
section
/-! DEFINITION. One step of the machine (60_exceptions.md R628). -/

namespace Sys2Proof.Machine

/-- One instruction fetched, executed and ended; an aborted fetch ends the same way (60_exceptions.md R628). -/
def instructionStep (s : State) : Host.Outcome State Fault Refusal :=
  match s.fetch with
  | .aborted t => .next (s.endStep t)
  | .instruction i u =>
    match exec i u with
    | .next t => .next (s.endStep t)
    | .fault f => .fault f
    | .refused r => .refused r

/-- One step: the events, then nothing more if halted, an interrupt sequence if one is due, or one instruction
(60_exceptions.md R628); at the boundary after a BEX none is due (43_jump_branch.md R348; log 29). -/
def step (s : State) : Host.Outcome State Fault Refusal :=
  let e := s.applyEvents
  if e.halted then .next e
  else
    match e.dueInterrupt with
    | some n => .next (e.takeInterrupt n 0#4)
    | none => instructionStep e.beginInstruction

/-- A state in which the instruction with the `nbits` bits `w` is the next that is fetched. -/
def State.withFetchWord (s : State) (nbits w : Nat) : State := s.placeInstruction nbits w

end Sys2Proof.Machine
end

