-- ==== Sys2Proof/Safety.lean ====
section
/-! DEFINITION. The terms in which the statements about the machine are made: what can be referenced, the operand of
an addressing mode, what an instruction leaves, the instructions of one shape, and the invariant of the machine. -/

namespace Sys2Proof.Machine

/-! ### What can be referenced -/

/-- `n` words from a logical address on can be read as operands, and no DMA access falls among the references
(20_memory.md R134, R140, R151; log 17). -/
abbrev State.Readable (s : State) (la : Word) (n : Nat) : Prop :=
  s.bus = [] ∧ ∀ k, k < n → s.readFault (s.operandRef (la + BitVec.ofNat 16 k)) s.ps = none

/-- `n` words from a logical address on can be written as operands, and no DMA access falls among the references
(20_memory.md R134, R141, R151; log 17). -/
abbrev State.Writable (s : State) (la : Word) (n : Nat) : Prop :=
  s.bus = [] ∧ ∀ k, k < n → s.writeFault (s.operandRef (la + BitVec.ofNat 16 k)) s.ps = none

/-- The word that an operand read of a logical address delivers (20_memory.md R140). -/
def State.wordAt (s : State) (la : Word) : Word := s.readPhysical (s.physical (s.operandRef la))

/-- The two words that an operand read of two words delivers (20_memory.md R112, R140). -/
def State.doubleAt (s : State) (la : Word) : Double := s.wordAt la ++ s.wordAt (la + 1)

/-- The three words that an operand read of three words delivers (20_memory.md R112, R140). -/
def State.tripleAt (s : State) (la : Word) : Triple := s.wordAt la ++ s.wordAt (la + 1) ++ s.wordAt (la + 2)

/-- The physical address that an operand write of a logical address stores to (20_memory.md R121, R141). -/
def State.target (s : State) (la : Word) : Nat := s.physical (s.operandRef la)

/-- Words stored at physical addresses, in order (20_memory.md R141). -/
def State.storeAll (s : State) (ps : List (Nat × Word)) : State :=
  match ps with
  | [] => s
  | (pa, w) :: rest => State.storeAll (s.storePhysical pa w) rest

/-- A word of the vector table or of a service block can be read by the interrupt sequence: operand set of group 0,
key 0 (20_memory.md R128). -/
abbrev State.VectorReadable (s : State) (la : Word) : Prop := s.readFault ⟨la, .operand, 0#4⟩ 0#4 = none

/-- The word that the interrupt sequence reads at a logical address (20_memory.md R128). -/
def State.vectorWord (s : State) (la : Word) : Word := s.readPhysical (s.physical ⟨la, .operand, 0#4⟩)

end Sys2Proof.Machine

namespace Sys2Proof.Claims

open Sys2Proof.Machine

/-! ### Operands by addressing mode -/

/-- A derived operand (30_encoding.md R180 to R190). -/
inductive Operand where
  /-- Mode R: a register, a pair or a triple. -/
  | register (rb : Reg)
  /-- Mode B. -/
  | base (br : Reg) (du : Byte)
  /-- Mode BX. -/
  | baseIndexed (br rx : Reg)
  /-- Modes D and DX. -/
  | direct (addr : Word) (rx : Reg)
  /-- Modes I and IX. -/
  | indirect (addr : Word) (rx : Reg)
  /-- Mode ISP. -/
  | shortPositive (n : Nat)
  /-- Mode ISN. -/
  | shortNegative (n : Nat)
  /-- Mode IM. -/
  | immediate (data : Word)
  /-- Mode IMX. -/
  | immediateIndexed (data : Word) (rx : Reg)
  deriving DecidableEq, Repr

/-- The derived address of a memory mode, none for the others (30_encoding.md R182 to R190). -/
def Operand.address (q : Operand) (s : State) : Option Word :=
  match q with
  | .base br du => some (s.based br du)
  | .baseIndexed br rx => some (s.baseIndexed br rx)
  | .direct addr rx => some (s.direct addr rx)
  | .indirect addr rx => some (s.wordAt (s.direct addr rx))
  | .register _ => none
  | .shortPositive _ => none
  | .shortNegative _ => none
  | .immediate _ => none
  | .immediateIndexed _ _ => none

/-- The address of the operand is known: the pointer word of an indirect mode can be read. -/
abbrev Operand.Reached (q : Operand) (s : State) : Prop :=
  match q with
  | .indirect addr rx => s.Readable (s.direct addr rx) 1
  | _ => True

/-- An operand of `n` words can be read. -/
abbrev Operand.Readable (q : Operand) (s : State) (n : Nat) : Prop :=
  q.Reached s ∧ ∀ da ∈ q.address s, s.Readable da n

/-- An operand of `n` words can be written. -/
abbrev Operand.Writable (q : Operand) (s : State) (n : Nat) : Prop :=
  q.Reached s ∧ ∀ da ∈ q.address s, s.Writable da n

/-- The logical addresses of `n` words from one on. -/
def addresses (la : Word) (n : Nat) : List Word := (List.range n).map fun k => la + BitVec.ofNat 16 k

/-- The logical addresses that reading `n` words of an operand references, in order: the pointer of an indirect mode
first, then the words (20_memory.md R140, 30_encoding.md R183). -/
def Operand.reads (q : Operand) (s : State) (n : Nat) : List Word :=
  (match q with
    | .indirect addr rx => [s.direct addr rx]
    | _ => []) ++ ((q.address s).map fun da => addresses da n).getD []

/-- The operand, single precision. -/
def Operand.word (q : Operand) (s : State) : Word :=
  match q with
  | .register rb => s.reg rb
  | .base br du => s.wordAt (s.based br du)
  | .baseIndexed br rx => s.wordAt (s.baseIndexed br rx)
  | .direct addr rx => s.wordAt (s.direct addr rx)
  | .indirect addr rx => s.wordAt (s.wordAt (s.direct addr rx))
  | .shortPositive n => BitVec.ofNat 16 n
  | .shortNegative n => BitVec.ofInt 16 (-n)
  | .immediate data => data
  | .immediateIndexed data rx => s.direct data rx

/-- The operand, double precision or floating point; the modes that no such instruction has give 0. -/
def Operand.double (q : Operand) (s : State) : Double :=
  match q with
  | .register rb => s.reg rb ++ s.reg (rb + 1)
  | q => ((q.address s).map s.doubleAt).getD 0

/-- The operand, extended floating point; the modes that no such instruction has give 0. -/
def Operand.triple (q : Operand) (s : State) : Triple :=
  match q with
  | .register rb => s.reg rb ++ s.reg (rb + 1) ++ s.reg (rb + 2)
  | q => ((q.address s).map s.tripleAt).getD 0

/-! ### What an instruction leaves -/

/-- The registers of a state with one of them replaced. -/
def putWord (s : State) (r : Reg) (v : Word) : Reg → Word := fun q => if q = r then v else s.reg q

/-- The registers of a state with a register and the next one replaced (10_state.md R53). -/
def putTwo (s : State) (r : Reg) (v w : Word) : Reg → Word :=
  fun q => if q = r then v else if q = r + 1 then w else s.reg q

/-- The registers of a state with a pair replaced, the most significant word first (10_state.md R53). -/
def putPair (s : State) (r : Reg) (v : Double) : Reg → Word :=
  putTwo s r (v.extractLsb' 16 16) (v.extractLsb' 0 16)

/-- The registers of a state with a triple replaced, the most significant word first (10_state.md R53). -/
def putTriple (s : State) (r : Reg) (v : Triple) : Reg → Word :=
  fun q => if q = r then v.extractLsb' 32 16 else if q = r + 1 then v.extractLsb' 16 16
    else if q = r + 2 then v.extractLsb' 0 16 else s.reg q

/-- The condition status of an integer: positive, zero or negative (00_scope.md R20). -/
def condition (x : Int) : Nibble := if x = 0 then 0b0010#4 else if x < 0 then 0b0001#4 else 0b0100#4

/-- A condition status with its carry bit (00_scope.md R20). -/
def withCarry (carry : Bool) (c : Nibble) : Nibble := (if carry then 0b1000#4 else 0b0000#4) ||| c

/-- An integer is not a single precision number (00_scope.md R21, R23). -/
def exceedsWord (x : Int) : Bool := x < -32768 || 32767 < x

/-- An integer is not a double precision number (00_scope.md R22, R23). -/
def exceedsDouble (x : Int) : Bool := x < -2147483648 || 2147483647 < x

/-- The interrupts requested: interrupt `n` if the condition holds. -/
def request (b : Bool) (n : Nat) : Word := if b then bitMask n else 0#16

/-- The interrupt that a floating point result requests (00_scope.md R30). -/
def floatRequest (r : FloatRequest) : Word :=
  match r with
  | .none => 0#16
  | .overflow => bitMask 3
  | .underflow => bitMask 6

/-- What a byte of memory holds after words are stored at physical addresses, in order; `old` is what it held
before. -/
def storedByte (stored : List (Nat × Word)) (a : Nat) (old : Byte) : Byte :=
  match stored with
  | [] => old
  | (pa, w) :: rest =>
    storedByte rest a (if a = 2 * pa then upperByte w else if a = 2 * pa + 1 then lowerByte w else old)

/-- What an instruction leaves: its instruction counter, general registers, condition status, requests and stored
words, and EVERYTHING ELSE as it was: the rest of the status word, the other pending interrupts, every byte of
memory that is not stored to, and every other register, flag, latch and interface of the machine. -/
structure Leaves (s t : State) (ic : Word) (regs : Reg → Word) (cs : Nibble) (requests : Word)
    (stored : List (Nat × Word)) : Prop where
  /-- The instruction counter. -/
  counter : t.ic = ic
  /-- Every general register. -/
  registers : ∀ r, t.reg r = regs r
  /-- The condition status. -/
  condition : t.cs = cs
  /-- The rest of the status word. -/
  status : t.sw.extractLsb' 0 12 = s.sw.extractLsb' 0 12
  /-- The pending interrupts: those before, and those requested. -/
  pending : t.pir = s.pir ||| requests
  /-- Every byte of memory. -/
  memory : ∀ a, Memory.byte t.mem a = storedByte stored a (Memory.byte s.mem a)
  /-- The words with bad parity: those before that are not stored to. -/
  parity : ∀ pa, pa ∈ t.badParity ↔ pa ∈ s.badParity ∧ pa ∉ stored.map (·.1)
  /-- Everything else. -/
  rest : { t with ic := s.ic, regs := s.regs, sw := s.sw, pir := s.pir, mem := s.mem, badParity := s.badParity } = s

/-- An instruction completes, and this is what it leaves. -/
def Completes (i : Instr) (s : State) (ic : Word) (regs : Reg → Word) (cs : Nibble) (requests : Word)
    (stored : List (Nat × Word)) : Prop :=
  ∃ t, exec i s = .next t ∧ Leaves s t ic regs cs requests stored

/-- What a fault that aborts an instruction leaves: IC at the next instruction, the fault register bit if the
machine has it, interrupt 1 pending, the memory fault status where it exists and a reference failed, and everything
else as it was (60_exceptions.md R601). -/
def aborted (s : State) (ic : Word) (fault : Nat) (ref : Option MemRef) : State :=
  { s with
    ic := ic
    ft := s.ft ||| (bitMask fault &&& s.cfg.faultBits)
    pir := s.pir ||| bitMask 1
    mfsr := if s.cfg.hasMfsr then (ref.map designators).getD s.mfsr else s.mfsr }

/-- What a status word is after `load_SW` of a word, what it adds to the fault register and to the pending
interrupts: the address state fault (60_exceptions.md R608). -/
structure LoadsStatus (s t : State) (w pending : Word) : Prop where
  /-- The status word: its AS field is 0 where it names no group of the machine. -/
  status : t.sw = if (w.extractLsb' 0 4).toNat < s.cfg.groups then w else w.extractLsb' 4 12 ++ 0#4
  /-- The fault register. -/
  fault : t.ft = if (w.extractLsb' 0 4).toNat < s.cfg.groups then s.ft else s.ft ||| (bitMask 11 &&& s.cfg.faultBits)
  /-- The pending interrupts, `pending` being those without an address state fault. -/
  request : t.pir = if (w.extractLsb' 0 4).toNat < s.cfg.groups then pending else pending ||| bitMask 1

/-- The page register group of the linkage stores: the AS field of the new status word, 0 where it names no group
(20_memory.md R128, 60_exceptions.md R608). -/
def linkageGroup (s : State) (status : Word) : Nibble :=
  if (status.extractLsb' 0 4).toNat < s.cfg.groups then status.extractLsb' 0 4 else 0#4

/-- The addresses and words of the interrupt sequence for interrupt `n` with entry `entry`
(60_exceptions.md R611, R624). -/
structure VectorWords where
  /-- The service pointer. -/
  service : Word
  /-- The linkage pointer. -/
  linkage : Word
  /-- The new interrupt mask. -/
  mask : Word
  /-- The new status word. -/
  status : Word
  /-- The new instruction counter. -/
  counter : Word

/-- The vector that memory holds for an interrupt. -/
def vector (s : State) (n : Nat) (entry : Nibble) : VectorWords :=
  let service := s.vectorWord (0x0021#16 + BitVec.ofNat 16 (2 * n))
  { service := service
    linkage := s.vectorWord (0x0020#16 + BitVec.ofNat 16 (2 * n))
    mask := s.vectorWord service
    status := s.vectorWord (service + 1)
    counter := s.vectorWord (service + 2 + entry.setWidth 16) }

/-- The eight references of the interrupt sequence are all allowed (60_exceptions.md R624, R629). -/
structure Enterable (s : State) (n : Nat) (entry : Nibble) : Prop where
  /-- No DMA access falls among the references (log 17). -/
  quiet : s.bus = []
  /-- The service pointer can be read. -/
  service : s.VectorReadable (0x0021#16 + BitVec.ofNat 16 (2 * n))
  /-- The new mask can be read. -/
  mask : s.VectorReadable (vector s n entry).service
  /-- The new status word can be read. -/
  status : s.VectorReadable ((vector s n entry).service + 1)
  /-- The new instruction counter can be read. -/
  counter : s.VectorReadable ((vector s n entry).service + 2 + entry.setWidth 16)
  /-- The linkage pointer can be read. -/
  linkage : s.VectorReadable (0x0020#16 + BitVec.ofNat 16 (2 * n))
  /-- The three linkage words can be written. -/
  store : ∀ k, k < 3 → s.writeFault
    ⟨(vector s n entry).linkage + BitVec.ofNat 16 k, .operand, linkageGroup s (vector s n entry).status⟩ 0#4 = none

/-- The five reads of the interrupt sequence, in order (60_exceptions.md R624). -/
def vectorReads (s : State) (n : Nat) (entry : Nibble) : List Word :=
  [0x0021#16 + BitVec.ofNat 16 (2 * n), (vector s n entry).service, (vector s n entry).service + 1,
   (vector s n entry).service + 2 + entry.setWidth 16, 0x0020#16 + BitVec.ofNat 16 (2 * n)]

/-- The three linkage stores: old mask, old status word and old instruction counter (60_exceptions.md R611). -/
def linkageStores (s : State) (n : Nat) (entry : Nibble) (oldCounter : Word) : List (Nat × Word) :=
  let at' := fun k => s.physical
    ⟨(vector s n entry).linkage + k, .operand, linkageGroup s (vector s n entry).status⟩
  [(at' 0, s.mkr), (at' 1, s.sw), (at' 2, oldCounter)]

/-- What the interrupt sequence for interrupt `n` leaves, `oldCounter` being the instruction counter it saves:
mask, status word and counter from the service block, the old ones in the linkage block, interrupts disabled, the
request consumed, the code register of an input/output interrupt frozen, and everything else as it was
(60_exceptions.md R624, R625). -/
structure Entered (s t : State) (n : Nat) (entry : Nibble) (oldCounter : Word) : Prop where
  /-- The mask. -/
  mask : t.mkr = (vector s n entry).mask
  /-- The status word, the fault register and the pending interrupts. -/
  status : LoadsStatus s t (vector s n entry).status (s.pir &&& ~~~bitMask n)
  /-- The instruction counter. -/
  counter : t.ic = (vector s n entry).counter
  /-- Interrupts are disabled and no enable is pending. -/
  disabled : t.inten = false ∧ t.endly = false
  /-- The hold on the request ends. -/
  hold : t.pihold = s.pihold &&& ~~~bitMask n
  /-- The freeze flags. -/
  freeze : t.io = { s.io with frz1 := s.io.frz1 || (s.cfg.hasIoic && n == 12),
                              frz2 := s.io.frz2 || (s.cfg.hasIoic && n == 14) }
  /-- Every byte of memory. -/
  memory : ∀ a, Memory.byte t.mem a = storedByte (linkageStores s n entry oldCounter) a (Memory.byte s.mem a)
  /-- The words with bad parity. -/
  parity : ∀ pa, pa ∈ t.badParity ↔ pa ∈ s.badParity ∧ pa ∉ (linkageStores s n entry oldCounter).map (·.1)
  /-- Everything else: the general registers, the page registers, the timers and the rest. -/
  rest : { t with mkr := s.mkr, sw := s.sw, ft := s.ft, pir := s.pir, ic := s.ic, inten := s.inten, endly := s.endly,
                  pihold := s.pihold, io := s.io, mem := s.mem, badParity := s.badParity } = s

/-- The reference of a linkage store (20_memory.md R128, 60_exceptions.md R624). -/
def linkageRef (s : State) (n : Nat) (entry : Nibble) (k : Nat) : MemRef :=
  ⟨(vector s n entry).linkage + BitVec.ofNat 16 k, .operand, linkageGroup s (vector s n entry).status⟩

/-- What the interrupt sequence leaves when linkage store `j` is the first of its references that is refused, with fault
`k`: the new mask, status word and counter in force, the `j` earlier stores made, interrupts disabled, the request
consumed, the fault recorded, and everything else as it was (60_exceptions.md R629). -/
structure LinkageRefused (s t : State) (n : Nat) (entry : Nibble) (oldCounter : Word) (j : Nat) (k : CpuFault) :
    Prop where
  /-- The mask and the instruction counter. -/
  loaded : t.mkr = (vector s n entry).mask ∧ t.ic = (vector s n entry).counter
  /-- The status word: its AS field is 0 where it names no group of the machine. -/
  status : t.sw = if ((vector s n entry).status.extractLsb' 0 4).toNat < s.cfg.groups then (vector s n entry).status
    else (vector s n entry).status.extractLsb' 4 12 ++ 0#4
  /-- The fault register: the fault of the store, and fault 11 where AS names no group. -/
  faults : t.ft = s.ft ||| (bitMask k.bit &&& s.cfg.faultBits) |||
    (if ((vector s n entry).status.extractLsb' 0 4).toNat < s.cfg.groups then 0#16
      else bitMask 11 &&& s.cfg.faultBits)
  /-- The pending interrupts: the request is consumed, interrupt 1 is requested. -/
  pending : t.pir = (s.pir &&& ~~~bitMask n) ||| bitMask 1 ∧ t.pihold = s.pihold &&& ~~~bitMask n
  /-- Interrupts are disabled and no enable is pending. -/
  disabled : t.inten = false ∧ t.endly = false
  /-- The memory fault status captures the store. -/
  captured : t.mfsr = if s.cfg.hasMfsr then designators (linkageRef s n entry j) else s.mfsr
  /-- Every byte of memory. -/
  memory : ∀ a, Memory.byte t.mem a =
    storedByte ((linkageStores s n entry oldCounter).take j) a (Memory.byte s.mem a)
  /-- The words with bad parity. -/
  parity : ∀ pa, pa ∈ t.badParity ↔ pa ∈ s.badParity ∧ pa ∉ ((linkageStores s n entry oldCounter).take j).map (·.1)
  /-- Everything else; that the freeze flags stay is the model's choice, log 20. -/
  rest : { t with mkr := s.mkr, sw := s.sw, ft := s.ft, pir := s.pir, ic := s.ic, inten := s.inten, endly := s.endly,
                  pihold := s.pihold, mfsr := s.mfsr, mem := s.mem, badParity := s.badParity } = s

/-- What the interrupt sequence leaves when one of its references is refused (60_exceptions.md R629). -/
inductive SequenceFault (s : State) (n : Nat) (entry : Nibble) (oldCounter : Word) : State → Prop where
  /-- The first refused reference is a read: the mask, the status word, the counter, the enables and memory stay; the
  fault is recorded and the request consumed. -/
  | read {before after : List Word} {la : Word} {k : CpuFault} :
    vectorReads s n entry = before ++ la :: after → (∀ b ∈ before, s.VectorReadable b) →
    s.readFault ⟨la, .operand, 0#4⟩ 0#4 = some k →
    SequenceFault s n entry oldCounter { aborted s oldCounter k.bit (some ⟨la, .operand, 0#4⟩) with
      pir := (s.pir &&& ~~~bitMask n) ||| bitMask 1
      pihold := s.pihold &&& ~~~bitMask n }
  /-- The first refused reference is a linkage store. -/
  | store {t : State} {j : Nat} {k : CpuFault} :
    (∀ la ∈ vectorReads s n entry, s.VectorReadable la) → j < 3 →
    (∀ b, b < j → s.writeFault (linkageRef s n entry b) 0#4 = none) →
    s.writeFault (linkageRef s n entry j) 0#4 = some k → LinkageRefused s t n entry oldCounter j k →
    SequenceFault s n entry oldCounter t

/-- The reset state (70_reset_and_hazards.md R661, and R665 for what Table VI does not list): every register and latch
that the spec gives a value. -/
structure AfterReset (t : State) : Prop where
  /-- Instruction counter, status word, fault register, pending interrupts, mask: all zeros. -/
  registers : t.ic = 0#16 ∧ t.sw = 0#16 ∧ t.ft = 0#16 ∧ t.pir = 0#16 ∧ t.mkr = 0#16
  /-- Interrupts are disabled, none is held, no enable is pending, and the processor runs. -/
  latches : t.inten = false ∧ t.endly = false ∧ t.pihold = 0#16 ∧ t.halted = false
  /-- The timers are zero and count. -/
  timers : t.timers = { ta := 0#16, tb := 0#16, taRun := true, tbRun := true }
  /-- The block protection is off and its words are zero. -/
  protection : t.mpen = false ∧ ∀ k : Fin 128, t.mpr[k.val] = 0#16
  /-- The start up ROM is enabled. -/
  rom : t.suen = true
  /-- Direct memory access is disabled, the discrete outputs are zero, the go discrete is high and counts. -/
  interfaces : t.io.dmaen = false ∧ t.io.dout = 0#16 ∧ t.io.goHigh = true ∧ t.io.goCount = t.cfg.goPeriod
  /-- The interrupt code registers are not frozen. -/
  frozen : t.io.frz1 = false ∧ t.io.frz2 = false
  /-- Page r of group 0 is physical page r, without lock and protection. -/
  pages : ∀ p : Nibble, t.pri[0][p.toNat] = p.setWidth 16 ∧ t.pro[0][p.toNat] = p.setWidth 16

/-! ### The instructions of one shape: the instruction, its accumulator, its length and its operand -/

/-- The single precision loads (44_load.md R371 to R378). -/
inductive LoadForm : Instr → Reg → Word → Operand → Prop where
  | lr (ra rb : Reg) : LoadForm (.lr ra rb) ra 1 (.register rb)
  | lb (br : Reg) (du : Byte) : LoadForm (.lb br du) 2 1 (.base br du)
  | lbx (br rx : Reg) : LoadForm (.lbx br rx) 2 1 (.baseIndexed br rx)
  | lisp (ra : Reg) (n : Nat) : LoadForm (.lisp ra n) ra 1 (.shortPositive n)
  | lisn (ra : Reg) (n : Nat) : LoadForm (.lisn ra n) ra 1 (.shortNegative n)
  | l (ra : Reg) (addr : Word) (rx : Reg) : LoadForm (.l ra addr rx) ra 2 (.direct addr rx)
  | lim (ra : Reg) (data : Word) (rx : Reg) : LoadForm (.lim ra data rx) ra 2 (.immediateIndexed data rx)
  | li (ra : Reg) (addr : Word) (rx : Reg) : LoadForm (.li ra addr rx) ra 2 (.indirect addr rx)

/-- The byte loads: whether the upper byte is loaded (44_load.md R392 to R395). -/
inductive LoadByteForm : Instr → Reg → Bool → Operand → Prop where
  | lub (ra : Reg) (addr : Word) (rx : Reg) : LoadByteForm (.lub ra addr rx) ra true (.direct addr rx)
  | lubi (ra : Reg) (addr : Word) (rx : Reg) : LoadByteForm (.lubi ra addr rx) ra true (.indirect addr rx)
  | llb (ra : Reg) (addr : Word) (rx : Reg) : LoadByteForm (.llb ra addr rx) ra false (.direct addr rx)
  | llbi (ra : Reg) (addr : Word) (rx : Reg) : LoadByteForm (.llbi ra addr rx) ra false (.indirect addr rx)

/-- The double precision loads (44_load.md R379 to R383). -/
inductive LoadPairForm : Instr → Reg → Word → Operand → Prop where
  | dlr (ra rb : Reg) : LoadPairForm (.dlr ra rb) ra 1 (.register rb)
  | dlb (br : Reg) (du : Byte) : LoadPairForm (.dlb br du) 0 1 (.base br du)
  | dlbx (br rx : Reg) : LoadPairForm (.dlbx br rx) 0 1 (.baseIndexed br rx)
  | dl (ra : Reg) (addr : Word) (rx : Reg) : LoadPairForm (.dl ra addr rx) ra 2 (.direct addr rx)
  | dli (ra : Reg) (addr : Word) (rx : Reg) : LoadPairForm (.dli ra addr rx) ra 2 (.indirect addr rx)

/-- The stores of registers: the registers stored, in ascending address order (45_store.md R401 to R404, R410 to
R413, R416). -/
inductive StoreForm : Instr → Word → Operand → List Reg → Prop where
  | stb (br : Reg) (du : Byte) : StoreForm (.stb br du) 1 (.base br du) [2]
  | stbx (br rx : Reg) : StoreForm (.stbx br rx) 1 (.baseIndexed br rx) [2]
  | st (ra : Reg) (addr : Word) (rx : Reg) : StoreForm (.st ra addr rx) 2 (.direct addr rx) [ra]
  | sti (ra : Reg) (addr : Word) (rx : Reg) : StoreForm (.sti ra addr rx) 2 (.indirect addr rx) [ra]
  | dstb (br : Reg) (du : Byte) : StoreForm (.dstb br du) 1 (.base br du) [0, 1]
  | dstx (br rx : Reg) : StoreForm (.dstx br rx) 1 (.baseIndexed br rx) [0, 1]
  | dst (ra : Reg) (addr : Word) (rx : Reg) : StoreForm (.dst ra addr rx) 2 (.direct addr rx) [ra, ra + 1]
  | dsti (ra : Reg) (addr : Word) (rx : Reg) : StoreForm (.dsti ra addr rx) 2 (.indirect addr rx) [ra, ra + 1]
  | efst (ra : Reg) (addr : Word) (rx : Reg) :
    StoreForm (.efst ra addr rx) 2 (.direct addr rx) [ra, ra + 1, ra + 2]

/-- The stores of a constant (45_store.md R405, R406). -/
inductive StoreConstantForm : Instr → Nibble → Operand → Prop where
  | stc (n : Nibble) (addr : Word) (rx : Reg) : StoreConstantForm (.stc n addr rx) n (.direct addr rx)
  | stci (n : Nibble) (addr : Word) (rx : Reg) : StoreConstantForm (.stci n addr rx) n (.indirect addr rx)

/-- The instructions that replace a word of memory by a function of it and of the registers, and set no flag
(41_bit.md R291, R293, R294, R296; 45_store.md R414, R422 to R425). -/
inductive ModifyForm (s : State) : Instr → Operand → (Word → Word) → Prop where
  | sb (n : Nibble) (addr : Word) (rx : Reg) :
    ModifyForm s (.sb n addr rx) (.direct addr rx) fun q => q ||| bitMask n.toNat
  | sbi (n : Nibble) (addr : Word) (rx : Reg) :
    ModifyForm s (.sbi n addr rx) (.indirect addr rx) fun q => q ||| bitMask n.toNat
  | rb (n : Nibble) (addr : Word) (rx : Reg) :
    ModifyForm s (.rb n addr rx) (.direct addr rx) fun q => q &&& ~~~bitMask n.toNat
  | rbi (n : Nibble) (addr : Word) (rx : Reg) :
    ModifyForm s (.rbi n addr rx) (.indirect addr rx) fun q => q &&& ~~~bitMask n.toNat
  | srm (ra : Reg) (addr : Word) (rx : Reg) :
    ModifyForm s (.srm ra addr rx) (.direct addr rx) fun q =>
      (q &&& ~~~s.reg (ra + 1)) ||| (s.reg ra &&& s.reg (ra + 1))
  | stub (ra : Reg) (addr : Word) (rx : Reg) :
    ModifyForm s (.stub ra addr rx) (.direct addr rx) fun q => lowerByte (s.reg ra) ++ lowerByte q
  | subi (ra : Reg) (addr : Word) (rx : Reg) :
    ModifyForm s (.subi ra addr rx) (.indirect addr rx) fun q => lowerByte (s.reg ra) ++ lowerByte q
  | stlb (ra : Reg) (addr : Word) (rx : Reg) :
    ModifyForm s (.stlb ra addr rx) (.direct addr rx) fun q => upperByte q ++ lowerByte (s.reg ra)
  | slbi (ra : Reg) (addr : Word) (rx : Reg) :
    ModifyForm s (.slbi ra addr rx) (.indirect addr rx) fun q => upperByte q ++ lowerByte (s.reg ra)

/-- The bit instructions on a register: the register and the bit set or cleared (41_bit.md R292, R295, R301,
R302). -/
inductive RegisterBitForm (s : State) : Instr → Reg → Nibble → Bool → Prop where
  | sbr (n : Nibble) (rb : Reg) : RegisterBitForm s (.sbr n rb) rb n true
  | rbr (n : Nibble) (rb : Reg) : RegisterBitForm s (.rbr n rb) rb n false
  | svbr (ra rb : Reg) : RegisterBitForm s (.svbr ra rb) rb ((s.reg ra).extractLsb' 0 4) true
  | rvbr (ra rb : Reg) : RegisterBitForm s (.rvbr ra rb) rb ((s.reg ra).extractLsb' 0 4) false

/-- The bit tests (41_bit.md R297 to R299, R303). -/
inductive TestBitForm (s : State) : Instr → Nibble → Word → Operand → Prop where
  | tb (n : Nibble) (addr : Word) (rx : Reg) : TestBitForm s (.tb n addr rx) n 2 (.direct addr rx)
  | tbi (n : Nibble) (addr : Word) (rx : Reg) : TestBitForm s (.tbi n addr rx) n 2 (.indirect addr rx)
  | tbr (n : Nibble) (rb : Reg) : TestBitForm s (.tbr n rb) n 1 (.register rb)
  | tvbr (ra rb : Reg) : TestBitForm s (.tvbr ra rb) ((s.reg ra).extractLsb' 0 4) 1 (.register rb)

/-- The single precision additions (46_add_subtract.md R435 to R440). -/
inductive AddForm : Instr → Reg → Word → Operand → Prop where
  | ar (ra rb : Reg) : AddForm (.ar ra rb) ra 1 (.register rb)
  | ab (br : Reg) (du : Byte) : AddForm (.ab br du) 2 1 (.base br du)
  | abx (br rx : Reg) : AddForm (.abx br rx) 2 1 (.baseIndexed br rx)
  | aisp (ra : Reg) (n : Nat) : AddForm (.aisp ra n) ra 1 (.shortPositive n)
  | a (ra : Reg) (addr : Word) (rx : Reg) : AddForm (.a ra addr rx) ra 2 (.direct addr rx)
  | aim (ra : Reg) (data : Word) : AddForm (.aim ra data) ra 2 (.immediate data)

/-- The single precision subtractions (46_add_subtract.md R453 to R458). -/
inductive SubtractForm : Instr → Reg → Word → Operand → Prop where
  | sr (ra rb : Reg) : SubtractForm (.sr ra rb) ra 1 (.register rb)
  | sbb (br : Reg) (du : Byte) : SubtractForm (.sbb br du) 2 1 (.base br du)
  | sbbx (br rx : Reg) : SubtractForm (.sbbx br rx) 2 1 (.baseIndexed br rx)
  | sisp (ra : Reg) (n : Nat) : SubtractForm (.sisp ra n) ra 1 (.shortPositive n)
  | s (ra : Reg) (addr : Word) (rx : Reg) : SubtractForm (.s ra addr rx) ra 2 (.direct addr rx)
  | sim (ra : Reg) (data : Word) : SubtractForm (.sim ra data) ra 2 (.immediate data)

/-- The multiplications with a 16-bit product (47_multiply_divide.md R489 to R493). -/
inductive MultiplyWordForm : Instr → Reg → Word → Operand → Prop where
  | msr (ra rb : Reg) : MultiplyWordForm (.msr ra rb) ra 1 (.register rb)
  | misp (ra : Reg) (n : Nat) : MultiplyWordForm (.misp ra n) ra 1 (.shortPositive n)
  | misn (ra : Reg) (n : Nat) : MultiplyWordForm (.misn ra n) ra 1 (.shortNegative n)
  | ms (ra : Reg) (addr : Word) (rx : Reg) : MultiplyWordForm (.ms ra addr rx) ra 2 (.direct addr rx)
  | msim (ra : Reg) (data : Word) : MultiplyWordForm (.msim ra data) ra 2 (.immediate data)

/-- The multiplications with a 32-bit product (47_multiply_divide.md R494 to R498). -/
inductive MultiplyForm : Instr → Reg → Word → Operand → Prop where
  | mr (ra rb : Reg) : MultiplyForm (.mr ra rb) ra 1 (.register rb)
  | mb (br : Reg) (du : Byte) : MultiplyForm (.mb br du) 2 1 (.base br du)
  | mbx (br rx : Reg) : MultiplyForm (.mbx br rx) 2 1 (.baseIndexed br rx)
  | m (ra : Reg) (addr : Word) (rx : Reg) : MultiplyForm (.m ra addr rx) ra 2 (.direct addr rx)
  | mim (ra : Reg) (data : Word) : MultiplyForm (.mim ra data) ra 2 (.immediate data)

/-- The divisions of a 16-bit dividend (47_multiply_divide.md R507 to R511). -/
inductive DivideWordForm : Instr → Reg → Word → Operand → Prop where
  | dvr (ra rb : Reg) : DivideWordForm (.dvr ra rb) ra 1 (.register rb)
  | disp (ra : Reg) (n : Nat) : DivideWordForm (.disp ra n) ra 1 (.shortPositive n)
  | disn (ra : Reg) (n : Nat) : DivideWordForm (.disn ra n) ra 1 (.shortNegative n)
  | dv (ra : Reg) (addr : Word) (rx : Reg) : DivideWordForm (.dv ra addr rx) ra 2 (.direct addr rx)
  | dvim (ra : Reg) (data : Word) : DivideWordForm (.dvim ra data) ra 2 (.immediate data)

/-- The divisions of a 32-bit dividend by a word (47_multiply_divide.md R512 to R516). -/
inductive DivideForm : Instr → Reg → Word → Operand → Prop where
  | dr (ra rb : Reg) : DivideForm (.dr ra rb) ra 1 (.register rb)
  | db (br : Reg) (du : Byte) : DivideForm (.db br du) 2 1 (.base br du)
  | dbx (br rx : Reg) : DivideForm (.dbx br rx) 2 1 (.baseIndexed br rx)
  | d (ra : Reg) (addr : Word) (rx : Reg) : DivideForm (.d ra addr rx) ra 2 (.direct addr rx)
  | dim (ra : Reg) (data : Word) : DivideForm (.dim ra data) ra 2 (.immediate data)

/-- The logical instructions, with their operation (48_logical_convert_exchange.md R531 to R546). -/
inductive LogicalForm : Instr → (Word → Word → Word) → Reg → Word → Operand → Prop where
  | orr (ra rb : Reg) : LogicalForm (.orr ra rb) (· ||| ·) ra 1 (.register rb)
  | orb (br : Reg) (du : Byte) : LogicalForm (.orb br du) (· ||| ·) 2 1 (.base br du)
  | orbx (br rx : Reg) : LogicalForm (.orbx br rx) (· ||| ·) 2 1 (.baseIndexed br rx)
  | or (ra : Reg) (addr : Word) (rx : Reg) : LogicalForm (.or ra addr rx) (· ||| ·) ra 2 (.direct addr rx)
  | orim (ra : Reg) (data : Word) : LogicalForm (.orim ra data) (· ||| ·) ra 2 (.immediate data)
  | andr (ra rb : Reg) : LogicalForm (.andr ra rb) (· &&& ·) ra 1 (.register rb)
  | andb (br : Reg) (du : Byte) : LogicalForm (.andb br du) (· &&& ·) 2 1 (.base br du)
  | andx (br rx : Reg) : LogicalForm (.andx br rx) (· &&& ·) 2 1 (.baseIndexed br rx)
  | and (ra : Reg) (addr : Word) (rx : Reg) : LogicalForm (.and ra addr rx) (· &&& ·) ra 2 (.direct addr rx)
  | andm (ra : Reg) (data : Word) : LogicalForm (.andm ra data) (· &&& ·) ra 2 (.immediate data)
  | xorr (ra rb : Reg) : LogicalForm (.xorr ra rb) (· ^^^ ·) ra 1 (.register rb)
  | xor (ra : Reg) (addr : Word) (rx : Reg) : LogicalForm (.xor ra addr rx) (· ^^^ ·) ra 2 (.direct addr rx)
  | xorm (ra : Reg) (data : Word) : LogicalForm (.xorm ra data) (· ^^^ ·) ra 2 (.immediate data)
  | nr (ra rb : Reg) : LogicalForm (.nr ra rb) (fun a d => ~~~(a &&& d)) ra 1 (.register rb)
  | n (ra : Reg) (addr : Word) (rx : Reg) : LogicalForm (.n ra addr rx) (fun a d => ~~~(a &&& d)) ra 2 (.direct addr rx)
  | nim (ra : Reg) (data : Word) : LogicalForm (.nim ra data) (fun a d => ~~~(a &&& d)) ra 2 (.immediate data)

/-- The single precision compares (49_compare_nop_bpt.md R561 to R567). -/
inductive CompareForm : Instr → Reg → Word → Operand → Prop where
  | cr (ra rb : Reg) : CompareForm (.cr ra rb) ra 1 (.register rb)
  | cb (br : Reg) (du : Byte) : CompareForm (.cb br du) 2 1 (.base br du)
  | cbx (br rx : Reg) : CompareForm (.cbx br rx) 2 1 (.baseIndexed br rx)
  | cisp (ra : Reg) (n : Nat) : CompareForm (.cisp ra n) ra 1 (.shortPositive n)
  | cisn (ra : Reg) (n : Nat) : CompareForm (.cisn ra n) ra 1 (.shortNegative n)
  | c (ra : Reg) (addr : Word) (rx : Reg) : CompareForm (.c ra addr rx) ra 2 (.direct addr rx)
  | cim (ra : Reg) (data : Word) : CompareForm (.cim ra data) ra 2 (.immediate data)

/-- The register form and the direct form of an instruction with both (DAR and DA, EFAR and EFA, and so on). -/
inductive TwoForms (f : Reg → Reg → Instr) (g : Reg → Word → Reg → Instr) : Instr → Reg → Word → Operand → Prop where
  | register (ra rb : Reg) : TwoForms f g (f ra rb) ra 1 (.register rb)
  | direct (ra : Reg) (addr : Word) (rx : Reg) : TwoForms f g (g ra addr rx) ra 2 (.direct addr rx)

/-- The four forms of a floating point instruction on the pair of R0 in the base relative modes (FAR, FAB, FABX and
FA, and so on). -/
inductive FourForms (f : Reg → Reg → Instr) (b : Reg → Byte → Instr) (x : Reg → Reg → Instr)
    (g : Reg → Word → Reg → Instr) : Instr → Reg → Word → Operand → Prop where
  | register (ra rb : Reg) : FourForms f b x g (f ra rb) ra 1 (.register rb)
  | base (br : Reg) (du : Byte) : FourForms f b x g (b br du) 0 1 (.base br du)
  | baseIndexed (br rx : Reg) : FourForms f b x g (x br rx) 0 1 (.baseIndexed br rx)
  | direct (ra : Reg) (addr : Word) (rx : Reg) : FourForms f b x g (g ra addr rx) ra 2 (.direct addr rx)

/-- The floating point instructions on a pair and an operand, with the arithmetic of each (46_add_subtract.md R446
to R449, R464 to R467; 47_multiply_divide.md R501 to R504, R519 to R522). -/
inductive FloatForm : Instr → (Unpacked → Unpacked → FloatResult) → Reg → Word → Operand → Prop where
  | add {i : Instr} {acc : Reg} {len : Word} {q : Operand} :
    FourForms .far .fab .fabx .fa i acc len q → FloatForm i (addFloat 24) acc len q
  | subtract {i : Instr} {acc : Reg} {len : Word} {q : Operand} :
    FourForms .fsr .fsb .fsbx .fs i acc len q → FloatForm i (subFloat 24) acc len q
  | multiply {i : Instr} {acc : Reg} {len : Word} {q : Operand} :
    FourForms .fmr .fmb .fmbx .fm i acc len q → FloatForm i (mulFloat 24) acc len q
  | divide {i : Instr} {acc : Reg} {len : Word} {q : Operand} :
    FourForms .fdr .fdb .fdbx .fd i acc len q → FloatForm i (divFloat 24) acc len q

/-- The extended floating point instructions on a triple and an operand, with the arithmetic of each
(46_add_subtract.md R450, R451, R468, R469; 47_multiply_divide.md R505, R506, R523, R524). -/
inductive ExtendedForm : Instr → (Unpacked → Unpacked → FloatResult) → Reg → Word → Operand → Prop where
  | add {i : Instr} {acc : Reg} {len : Word} {q : Operand} :
    TwoForms .efar .efa i acc len q → ExtendedForm i (addFloat 40) acc len q
  | subtract {i : Instr} {acc : Reg} {len : Word} {q : Operand} :
    TwoForms .efsr .efs i acc len q → ExtendedForm i (subFloat 40) acc len q
  | multiply {i : Instr} {acc : Reg} {len : Word} {q : Operand} :
    TwoForms .efmr .efm i acc len q → ExtendedForm i (mulFloat 40) acc len q
  | divide {i : Instr} {acc : Reg} {len : Word} {q : Operand} :
    TwoForms .efdr .efd i acc len q → ExtendedForm i (divFloat 40) acc len q

/-- The shifts by a count in the instruction, single precision: the shift of a word by the count
(42_shift.md R311 to R314). -/
inductive ShiftForm : Instr → Byte → Reg → Nat → (Word → Nat → Word) → Prop where
  | sll (rb : Reg) (n : Nat) : ShiftForm (.sll rb n) 0x60 rb n fun v k => BitVec.ofNat 16 (v.toNat * Nat.pow 2 k)
  | srl (rb : Reg) (n : Nat) : ShiftForm (.srl rb n) 0x61 rb n fun v k => BitVec.ofNat 16 (v.toNat / Nat.pow 2 k)
  | sra (rb : Reg) (n : Nat) : ShiftForm (.sra rb n) 0x62 rb n fun v k => BitVec.ofInt 16 (Int.fdiv v.toInt (twoPow k))
  | slc (rb : Reg) (n : Nat) : ShiftForm (.slc rb n) 0x63 rb n fun v k =>
    BitVec.ofNat 16 (v.toNat * Nat.pow 2 k + v.toNat * Nat.pow 2 k / 65536)

/-- The shifts by a count in the instruction, double precision (42_shift.md R315 to R318). -/
inductive ShiftPairForm : Instr → Byte → Reg → Nat → (Double → Nat → Double) → Prop where
  | dsll (rb : Reg) (n : Nat) : ShiftPairForm (.dsll rb n) 0x65 rb n fun v k => BitVec.ofNat 32 (v.toNat * Nat.pow 2 k)
  | dsrl (rb : Reg) (n : Nat) : ShiftPairForm (.dsrl rb n) 0x66 rb n fun v k => BitVec.ofNat 32 (v.toNat / Nat.pow 2 k)
  | dsra (rb : Reg) (n : Nat) : ShiftPairForm (.dsra rb n) 0x67 rb n fun v k =>
    BitVec.ofInt 32 (Int.fdiv v.toInt (twoPow k))
  | dslc (rb : Reg) (n : Nat) : ShiftPairForm (.dslc rb n) 0x68 rb n fun v k =>
    BitVec.ofNat 32 (v.toNat * Nat.pow 2 k + v.toNat * Nat.pow 2 k / 4294967296)

/-- The branches relative to IC, the first byte, and when each is taken: `p`, `z` and `n` are the bits of CS
(43_jump_branch.md R345 to R352). -/
inductive BranchForm (p z n : Bool) : Instr → Byte → Byte → Bool → Prop where
  | br (d : Byte) : BranchForm p z n (.br d) 0x74 d true
  | bez (d : Byte) : BranchForm p z n (.bez d) 0x75 d z
  | blt (d : Byte) : BranchForm p z n (.blt d) 0x76 d n
  | ble (d : Byte) : BranchForm p z n (.ble d) 0x78 d (z || n)
  | bgt (d : Byte) : BranchForm p z n (.bgt d) 0x79 d p
  | bnz (d : Byte) : BranchForm p z n (.bnz d) 0x7A d (p || n)
  | bge (d : Byte) : BranchForm p z n (.bge d) 0x7B d (p || z)

/-- The operand reads of an instruction: its length, and the logical addresses in the order in which it reads them while
none is refused and no DMA access falls among them (20_memory.md R140, R143, R151). -/
inductive ReadsInOrder (s : State) : Instr → Word → List Word → Prop where
  | load {i : Instr} {acc : Reg} {len : Word} {q : Operand} :
    LoadForm i acc len q → ReadsInOrder s i len (q.reads s 1)
  | loadByte {i : Instr} {acc : Reg} {upper : Bool} {q : Operand} :
    LoadByteForm i acc upper q → ReadsInOrder s i 2 (q.reads s 1)
  | loadPair {i : Instr} {acc : Reg} {len : Word} {q : Operand} :
    LoadPairForm i acc len q → ReadsInOrder s i len (q.reads s 2)
  | efl (ra : Reg) (addr : Word) (rx : Reg) : ReadsInOrder s (.efl ra addr rx) 2 (addresses (s.direct addr rx) 3)
  | lm (n : Nibble) (addr : Word) (rx : Reg) :
    ReadsInOrder s (.lm n addr rx) 2 (addresses (s.direct addr rx) (n.toNat + 1))
  | popm (ra rb : Reg) : ReadsInOrder s (.popm ra rb) 1 (addresses (s.reg 15) ((rb - ra).toNat + 1))
  | store {i : Instr} {len : Word} {q : Operand} {rs : List Reg} :
    StoreForm i len q rs → ReadsInOrder s i len (q.reads s 0)
  | storeConstant {i : Instr} {n : Nibble} {q : Operand} :
    StoreConstantForm i n q → ReadsInOrder s i 2 (q.reads s 0)
  | modify {i : Instr} {q : Operand} {f : Word → Word} : ModifyForm s i q f → ReadsInOrder s i 2 (q.reads s 1)
  | testBit {i : Instr} {n : Nibble} {len : Word} {q : Operand} :
    TestBitForm s i n len q → ReadsInOrder s i len (q.reads s 1)
  | tsb (n : Nibble) (addr : Word) (rx : Reg) : ReadsInOrder s (.tsb n addr rx) 2 [s.direct addr rx]
  | incm (n : Nat) (addr : Word) (rx : Reg) : ReadsInOrder s (.incm n addr rx) 2 [s.direct addr rx]
  | decm (n : Nat) (addr : Word) (rx : Reg) : ReadsInOrder s (.decm n addr rx) 2 [s.direct addr rx]
  | mov (ra rb : Reg) : s.reg (ra + 1) ≠ 0#16 → ReadsInOrder s (.mov ra rb) 1 [s.reg rb]
  | add {i : Instr} {acc : Reg} {len : Word} {q : Operand} :
    AddForm i acc len q → ReadsInOrder s i len (q.reads s 1)
  | subtract {i : Instr} {acc : Reg} {len : Word} {q : Operand} :
    SubtractForm i acc len q → ReadsInOrder s i len (q.reads s 1)
  | multiplyWord {i : Instr} {acc : Reg} {len : Word} {q : Operand} :
    MultiplyWordForm i acc len q → ReadsInOrder s i len (q.reads s 1)
  | multiply {i : Instr} {acc : Reg} {len : Word} {q : Operand} :
    MultiplyForm i acc len q → ReadsInOrder s i len (q.reads s 1)
  | divideWord {i : Instr} {acc : Reg} {len : Word} {q : Operand} :
    DivideWordForm i acc len q → ReadsInOrder s i len (q.reads s 1)
  | divide {i : Instr} {acc : Reg} {len : Word} {q : Operand} :
    DivideForm i acc len q → ReadsInOrder s i len (q.reads s 1)
  | logical {i : Instr} {op : Word → Word → Word} {acc : Reg} {len : Word} {q : Operand} :
    LogicalForm i op acc len q → ReadsInOrder s i len (q.reads s 1)
  | compare {i : Instr} {acc : Reg} {len : Word} {q : Operand} :
    CompareForm i acc len q → ReadsInOrder s i len (q.reads s 1)
  | cbl (ra : Reg) (addr : Word) (rx : Reg) : ReadsInOrder s (.cbl ra addr rx) 2 (addresses (s.direct addr rx) 2)
  | addPair {i : Instr} {acc : Reg} {len : Word} {q : Operand} :
    TwoForms .dar .da i acc len q → ReadsInOrder s i len (q.reads s 2)
  | subtractPair {i : Instr} {acc : Reg} {len : Word} {q : Operand} :
    TwoForms .dsr .ds i acc len q → ReadsInOrder s i len (q.reads s 2)
  | multiplyPair {i : Instr} {acc : Reg} {len : Word} {q : Operand} :
    TwoForms .dmr .dm i acc len q → ReadsInOrder s i len (q.reads s 2)
  | dividePair {i : Instr} {acc : Reg} {len : Word} {q : Operand} :
    TwoForms .ddr .dd i acc len q → ReadsInOrder s i len (q.reads s 2)
  | comparePair {i : Instr} {acc : Reg} {len : Word} {q : Operand} :
    TwoForms .dcr .dc i acc len q → ReadsInOrder s i len (q.reads s 2)
  | float {i : Instr} {op : Unpacked → Unpacked → FloatResult} {acc : Reg} {len : Word} {q : Operand} :
    FloatForm i op acc len q → ReadsInOrder s i len (q.reads s 2)
  | extended {i : Instr} {op : Unpacked → Unpacked → FloatResult} {acc : Reg} {len : Word} {q : Operand} :
    ExtendedForm i op acc len q → ReadsInOrder s i len (q.reads s 3)
  | compareFloat {i : Instr} {acc : Reg} {len : Word} {q : Operand} :
    FourForms .fcr .fcb .fcbx .fc i acc len q → ReadsInOrder s i len (q.reads s 2)
  | compareExtended {i : Instr} {acc : Reg} {len : Word} {q : Operand} :
    TwoForms .efcr .efc i acc len q → ReadsInOrder s i len (q.reads s 3)
  | jci (c : Nibble) (addr : Word) (rx : Reg) : ReadsInOrder s (.jci c addr rx) 2 [s.direct addr rx]
  | urs (ra : Reg) : ReadsInOrder s (.urs ra) 1 [s.reg ra]
  | lst (addr : Word) (rx : Reg) : s.ps = 0#4 →
    ReadsInOrder s (.lst addr rx) 2 ((Operand.direct addr rx).reads s 3)
  | lsti (addr : Word) (rx : Reg) : s.ps = 0#4 →
    ReadsInOrder s (.lsti addr rx) 2 ((Operand.indirect addr rx).reads s 3)
  | vio (ra : Reg) (addr : Word) (rx : Reg) : s.ps = 0#4 →
    ReadsInOrder s (.vio ra addr rx) 2 (addresses (s.direct addr rx) 2)

/-- The operand writes of an instruction whose reads are all allowed: its length, and the logical addresses and words
in the order in which it writes them while none is refused and no DMA access falls among them (20_memory.md R141,
R143, R151). The word of a MOV whose registers overlap is open (log 13). -/
inductive StoresInOrder (s : State) : Instr → Word → List (Word × Word) → Prop where
  | store {i : Instr} {len : Word} {q : Operand} {rs : List Reg} {da : Word} :
    StoreForm i len q rs → q.Reached s → q.address s = some da →
    StoresInOrder s i len (consecutive da (rs.map s.reg))
  | storeConstant {i : Instr} {n : Nibble} {q : Operand} {da : Word} :
    StoreConstantForm i n q → q.Reached s → q.address s = some da →
    StoresInOrder s i 2 [(da, BitVec.ofNat 16 n.toNat)]
  | stm (n : Nibble) (addr : Word) (rx : Reg) : StoresInOrder s (.stm n addr rx) 2
    (consecutive (s.direct addr rx) ((List.range (n.toNat + 1)).map fun k => s.reg (BitVec.ofNat 4 k)))
  | modify {i : Instr} {q : Operand} {f : Word → Word} {da : Word} :
    ModifyForm s i q f → q.Readable s 1 → q.address s = some da → StoresInOrder s i 2 [(da, f (s.wordAt da))]
  | tsb (n : Nibble) (addr : Word) (rx : Reg) : s.Readable (s.direct addr rx) 1 →
    StoresInOrder s (.tsb n addr rx) 2 [(s.direct addr rx, s.wordAt (s.direct addr rx) ||| bitMask n.toNat)]
  | incm (n : Nat) (addr : Word) (rx : Reg) : s.Readable (s.direct addr rx) 1 →
    StoresInOrder s (.incm n addr rx) 2 [(s.direct addr rx, s.wordAt (s.direct addr rx) + BitVec.ofNat 16 n)]
  | decm (n : Nat) (addr : Word) (rx : Reg) : s.Readable (s.direct addr rx) 1 →
    StoresInOrder s (.decm n addr rx) 2 [(s.direct addr rx, s.wordAt (s.direct addr rx) - BitVec.ofNat 16 n)]
  | mov (ra rb : Reg) (w : Word) : s.reg (ra + 1) ≠ 0#16 → s.Readable (s.reg rb) 1 →
    (rb ≠ ra → rb ≠ ra + 1 → w = s.wordAt (s.reg rb)) → StoresInOrder s (.mov ra rb) 1 [(s.reg ra, w)]
  | pshm (ra rb : Reg) : StoresInOrder s (.pshm ra rb) 1 ((List.range ((rb - ra).toNat + 1)).map fun k =>
    (s.reg 15 - 1 - BitVec.ofNat 16 k,
     if rb - BitVec.ofNat 4 k = 15 then s.reg 15 - 1 - BitVec.ofNat 16 k else s.reg (rb - BitVec.ofNat 4 k)))
  | sjs (ra : Reg) (addr : Word) (rx : Reg) : StoresInOrder s (.sjs ra addr rx) 2 [(s.reg ra - 1, s.ic + 2)]

/-- The privileged instructions (60_exceptions.md R650). -/
inductive Privileged : Instr → Prop where
  | xio (ra : Reg) (cmd : Word) (rx : Reg) : Privileged (.xio ra cmd rx)
  | vio (ra : Reg) (addr : Word) (rx : Reg) : Privileged (.vio ra addr rx)
  | lst (addr : Word) (rx : Reg) : Privileged (.lst addr rx)
  | lsti (addr : Word) (rx : Reg) : Privileged (.lsti addr rx)

/-- Whether an instruction sets IC otherwise than to the next instruction (43_jump_branch.md), or may stay where it
is (MOV, 45_store.md R409). -/
def redirects (i : Instr) : Bool :=
  match i with
  | .jc _ _ _ | .jci _ _ _ | .js _ _ _ | .soj _ _ _ | .br _ | .bez _ | .blt _ | .bex _ | .ble _ | .bgt _ | .bnz _
  | .bge _ | .lsti _ _ | .lst _ _ | .sjs _ _ _ | .urs _ | .mov _ _ => true
  | _ => false

/-! ### Input and output commands -/

/-- The input commands that only deliver a word: the code, and the word (40_input_output.md R236 to R238, R262 to
R272). -/
inductive Delivers (s : State) : Word → Word → Prop where
  | rmk : Delivers s 0xA000#16 s.mkr
  | rpir : Delivers s 0xA004#16 s.pir
  | rsw : Delivers s 0xA00E#16 s.sw
  | rdor : s.cfg.hasDiscreteOut = true → Delivers s 0xA008#16 s.io.dout
  | rdi : s.cfg.hasDiscreteIn = true → Delivers s 0xA009#16 s.io.din
  | tpio : s.cfg.hasTpio = true → Delivers s 0xA00B#16 s.io.pob
  | rmfs : s.cfg.hasMfsr = true → Delivers s 0xA00D#16 s.mfsr
  | rcs : s.cfg.hasConsole = true → Delivers s 0xC001#16 s.console.status
  | ita : s.cfg.hasTimers = true → Delivers s 0xC00A#16 s.timers.ta
  | itb : s.cfg.hasTimers = true → Delivers s 0xC00E#16 s.timers.tb
  | rmp (k : Fin 128) : s.cfg.hasMprot = true → Delivers s (BitVec.ofNat 16 (0xD000 + k.val)) s.mpr[k.val]
  | ripr (g p : Nibble) : s.cfg.xmem = true → g.toNat < s.cfg.groups →
    Delivers s (0xD1#8 ++ g ++ p) (s.pri[g.toNat][p.toNat] &&& pageMask s.cfg)
  | ropr (g p : Nibble) : s.cfg.xmem = true → g.toNat < s.cfg.groups →
    Delivers s (0xD2#8 ++ g ++ p) (s.pro[g.toNat][p.toNat] &&& pageMask s.cfg)

/-- The output commands of the interrupt system: the code, the word put out and the state that results
(40_input_output.md R228 to R233). -/
inductive Controls (s : State) (v : Word) : Word → State → Prop where
  | smk : Controls s v 0x2000#16 { s with mkr := v }
  | clir : Controls s v 0x2001#16 { s with pir := 0#16, ft := 0#16, pihold := 0#16 }
  | enbl : Controls s v 0x2002#16 { s with endly := s.endly || !s.inten }
  | dsbl : Controls s v 0x2003#16 { s with inten := false, endly := false }
  | rpi : Controls s v 0x2004#16
    { s with pir := s.pir &&& ~~~bitMask (v.toNat % 16), pihold := s.pihold &&& ~~~bitMask (v.toNat % 16),
             ft := if v.toNat % 16 = 1 then 0#16 else s.ft }
  | spi : Controls s v 0x2005#16 { s with pir := s.pir ||| v, pihold := s.pihold ||| v }

/-- The codes of ports and the spare codes (40_input_output.md R225). -/
def portCodes : List (Nat × Nat) :=
  [(0x0000, 0x1FFF), (0x3000, 0x3FFF), (0x5300, 0x9FFF), (0xB000, 0xBFFF), (0xD300, 0xFFFF)]

/-- A code of a port or a spare code that the devices of a machine answer (40_input_output.md R225, 00_scope.md R12). -/
def Answered (c : Config) (cmd : Word) : Prop :=
  ∃ r ∈ portCodes, r.1 ≤ cmd.toNat ∧ cmd.toNat ≤ r.2 ∧ ∃ g ∈ c.ioCodes, g.holds cmd.toNat = true

/-- The output commands of ports, memory, the timers, the discretes, direct memory access and the console: the code,
the word put out and the state that results (40_input_output.md R227, R241 to R259, R273). What a port does with the
word is not the standard's: the model hands it out with its code (log 15). The order of the console's bytes is log 14,
the unit of the go count log 8. -/
inductive Configures (s : State) (v : Word) : Word → State → Prop where
  | po (cmd : Word) : cmd.toNat ≤ 0x03FF → Answered s.cfg cmd → Configures s v cmd
    { s with io := { s.io with portOut := s.io.portOut ++ [(cmd, v)], pob := if s.cfg.hasTpio then v else s.io.pob } }
  | spare (cmd : Word) : 0x0400 ≤ cmd.toNat → cmd.toNat < 0x8000 → Answered s.cfg cmd → Configures s v cmd
    { s with io := { s.io with portOut := s.io.portOut ++ [(cmd, v)] } }
  | od : s.cfg.hasDiscreteOut = true → Configures s v 0x2008#16 { s with io := { s.io with dout := v } }
  | rns : s.cfg.hasNpu = true → Configures s v 0x200A#16 { s with io := { s.io with npu := false } }
  | co : s.cfg.hasConsole = true → s.console.connected = true → Configures s v 0x4000#16
    { s with console := { s.console with output := s.console.output ++ [upperByte v, lowerByte v] } }
  | coAlone : s.cfg.hasConsole = true → s.console.connected = false → Configures s v 0x4000#16 s
  | clc : s.cfg.hasConsole = true → Configures s v 0x4001#16
    { s with console := { s.console with output := [], input := [], status := 0#16 } }
  | mpen : s.cfg.hasMprot = true → Configures s v 0x4003#16 { s with mpen := true }
  | esur : s.cfg.hasSurom = true → Configures s v 0x4004#16 { s with suen := true }
  | dsur : s.cfg.hasSurom = true → Configures s v 0x4005#16 { s with suen := false }
  | dmae : s.cfg.hasDma = true → Configures s v 0x4006#16 { s with io := { s.io with dmaen := true } }
  | dmad : s.cfg.hasDma = true → Configures s v 0x4007#16 { s with io := { s.io with dmaen := false } }
  | tas : s.cfg.hasTimers = true → Configures s v 0x4008#16 { s with timers := { s.timers with taRun := true } }
  | tah : s.cfg.hasTimers = true → Configures s v 0x4009#16 { s with timers := { s.timers with taRun := false } }
  | ota : s.cfg.hasTimers = true →
    Configures s v 0x400A#16 { s with timers := { s.timers with ta := v, taRun := true } }
  | go : s.cfg.hasGo = true →
    Configures s v 0x400B#16 { s with io := { s.io with goHigh := true, goCount := s.cfg.goPeriod } }
  | tbs : s.cfg.hasTimers = true → Configures s v 0x400C#16 { s with timers := { s.timers with tbRun := true } }
  | tbh : s.cfg.hasTimers = true → Configures s v 0x400D#16 { s with timers := { s.timers with tbRun := false } }
  | otb : s.cfg.hasTimers = true →
    Configures s v 0x400E#16 { s with timers := { s.timers with tb := v, tbRun := true } }
  | lmp (k : Fin 128) : s.cfg.hasMprot = true →
    Configures s v (BitVec.ofNat 16 (0x5000 + k.val)) { s with mpr := s.mpr.set k.val v }
  | wipr (g p : Nibble) : s.cfg.xmem = true → g.toNat < s.cfg.groups →
    Configures s v (0x51#8 ++ g ++ p)
      { s with pri := s.pri.set g.toNat (s.pri[g.toNat].set p.toNat (v &&& pageMask s.cfg)) }
  | wopr (g p : Nibble) : s.cfg.xmem = true → g.toNat < s.cfg.groups →
    Configures s v (0x52#8 ++ g ++ p)
      { s with pro := s.pro.set g.toNat (s.pro[g.toNat].set p.toNat (v &&& pageMask s.cfg)) }

/-- The codes that the standard assigns, with the option each needs (40_input_output.md R225): first code, last code,
and whether a machine has it. -/
def assignedCodes (c : Config) : List (Nat × Nat × Bool) :=
  [(0x2000, 0x2005, true), (0x200E, 0x200E, true), (0xA000, 0xA000, true), (0xA004, 0xA004, true),
   (0xA00E, 0xA00F, true), (0x2008, 0x2008, c.hasDiscreteOut), (0x200A, 0x200A, c.hasNpu),
   (0x4000, 0x4001, c.hasConsole), (0x4003, 0x4003, c.hasMprot), (0x4004, 0x4005, c.hasSurom),
   (0x4006, 0x4007, c.hasDma), (0x4008, 0x400A, c.hasTimers), (0x400B, 0x400B, c.hasGo),
   (0x400C, 0x400E, c.hasTimers), (0x5000, 0x507F, c.hasMprot), (0xA001, 0xA002, c.hasIoic),
   (0xA008, 0xA008, c.hasDiscreteOut), (0xA009, 0xA009, c.hasDiscreteIn), (0xA00B, 0xA00B, c.hasTpio),
   (0xA00D, 0xA00D, c.hasMfsr), (0xC000, 0xC001, c.hasConsole), (0xC00A, 0xC00A, c.hasTimers),
   (0xC00E, 0xC00E, c.hasTimers), (0xD000, 0xD07F, c.hasMprot)]

/-- The codes of the page registers (40_input_output.md R225). -/
def pageCodes : List (Nat × Nat) := [(0x5100, 0x52FF), (0xD100, 0xD2FF)]

/-- A machine implements a command: an assigned code whose option it has, a code of a page register of a group it has,
or a code of a port or a spare code that its devices answer (40_input_output.md R225, R226). -/
def Implemented (c : Config) (cmd : Word) : Prop :=
  (∃ r ∈ assignedCodes c, r.1 ≤ cmd.toNat ∧ cmd.toNat ≤ r.2.1 ∧ r.2.2 = true) ∨
  (∃ r ∈ pageCodes, r.1 ≤ cmd.toNat ∧ cmd.toNat ≤ r.2 ∧ c.xmem = true ∧ cmd.toNat / 16 % 16 < c.groups) ∨
  Answered c cmd

/-- The commands that a VIO performs from bit `n` of its select word on, with its data words from `la` on: none of
them faults, and they lead from one state to another (40_input_output.md R275). -/
inductive VectorRun (base step select : Word) : Nat → Word → State → State → Prop where
  | done (la : Word) (s : State) : VectorRun base step select 16 la s s
  | skip {n : Nat} {la : Word} {s t : State} : n < 16 → select.getMsbD n = false →
    VectorRun base step select (n + 1) la s t → VectorRun base step select n la s t
  | output {n : Nat} {la : Word} {s t : State} (c : OutCommand) : n < 16 → select.getMsbD n = true →
    (base + BitVec.ofNat 16 n * step).msb = false → outCommand s.cfg (base + BitVec.ofNat 16 n * step) = some c →
    s.Readable la 1 → VectorRun base step select (n + 1) (la + 1) (s.runOutput c (s.wordAt la)) t →
    VectorRun base step select n la s t
  | input {n : Nat} {la : Word} {s t : State} (c : InCommand) : n < 16 → select.getMsbD n = true →
    (base + BitVec.ofNat 16 n * step).msb = true → inCommand s.cfg (base + BitVec.ofNat 16 n * step) = some c →
    (s.runInput c).2.Writable la 1 →
    VectorRun base step select (n + 1) (la + 1)
      ((s.runInput c).2.storePhysical ((s.runInput c).2.target la) (s.runInput c).1) t →
    VectorRun base step select n la s t

/-- The commands that a VIO performs until one of them faults: from one state to the state in which the faulting
command leaves the machine, with its fault and its reference. The faulting command has no effect, and what the
commands before it have done stays done (40_input_output.md R275, R276; log 24). -/
inductive VectorStops (base step select : Word) : Nat → Word → State → State → CpuFault → Option MemRef → Prop where
  | skip {n : Nat} {la : Word} {s t : State} {k : CpuFault} {ref : Option MemRef} : n < 16 → select.getMsbD n = false →
    VectorStops base step select (n + 1) la s t k ref → VectorStops base step select n la s t k ref
  | output {n : Nat} {la : Word} {s t : State} {k : CpuFault} {ref : Option MemRef} (c : OutCommand) : n < 16 →
    select.getMsbD n = true → (base + BitVec.ofNat 16 n * step).msb = false →
    outCommand s.cfg (base + BitVec.ofNat 16 n * step) = some c → s.Readable la 1 →
    VectorStops base step select (n + 1) (la + 1) (s.runOutput c (s.wordAt la)) t k ref →
    VectorStops base step select n la s t k ref
  | input {n : Nat} {la : Word} {s t : State} {k : CpuFault} {ref : Option MemRef} (c : InCommand) : n < 16 →
    select.getMsbD n = true → (base + BitVec.ofNat 16 n * step).msb = true →
    inCommand s.cfg (base + BitVec.ofNat 16 n * step) = some c → (s.runInput c).2.Writable la 1 →
    VectorStops base step select (n + 1) (la + 1)
      ((s.runInput c).2.storePhysical ((s.runInput c).2.target la) (s.runInput c).1) t k ref →
    VectorStops base step select n la s t k ref
  | illegal {n : Nat} {la : Word} {s : State} : n < 16 → select.getMsbD n = true →
    ¬Implemented s.cfg (base + BitVec.ofNat 16 n * step) →
    VectorStops base step select n la s s .illegalCommand none
  | unreadable {n : Nat} {la : Word} {s : State} {k : CpuFault} : n < 16 → select.getMsbD n = true →
    (base + BitVec.ofNat 16 n * step).msb = false → Implemented s.cfg (base + BitVec.ofNat 16 n * step) →
    s.bus = [] → s.readFault (s.operandRef la) s.ps = some k →
    VectorStops base step select n la s s k (some (s.operandRef la))
  | unwritable {n : Nat} {la : Word} {s : State} {k : CpuFault} : n < 16 → select.getMsbD n = true →
    (base + BitVec.ofNat 16 n * step).msb = true → Implemented s.cfg (base + BitVec.ofNat 16 n * step) →
    s.bus = [] → s.writeFault (s.operandRef la) s.ps = some k →
    VectorStops base step select n la s s k (some (s.operandRef la))

/-! ### Floating point values -/

/-- A normalized mantissa of `w` bits with an exponent of eight (00_scope.md R25, R26, R35). -/
def Normal (w : Nat) (u : Unpacked) : Prop :=
  (twoPow (w - 2) ≤ u.m ∧ u.m < twoPow (w - 1) ∨ -twoPow (w - 1) ≤ u.m ∧ u.m < -twoPow (w - 2)) ∧
  -128 ≤ u.e ∧ u.e ≤ 127

/-- A result is `v / d`, in the scale of `scaledValue`, cut off downwards to the bits of a normalized mantissa; the
result of zero is the floating point zero (00_scope.md R32, R35, R37). -/
def CutOff (w : Nat) (v d : Int) (r : Unpacked) : Prop :=
  v = 0 ∧ r = ⟨0, 0⟩ ∨
  v ≠ 0 ∧ Normal w r ∧ scaledValue r * d ≤ v ∧ v < scaledValue { r with m := r.m + 1 } * d

/-- The result and the request of a floating point operation whose exact value is `v / d` in the scale of
`scaledValue`, by when it overflows and underflows: the largest positive or the smallest negative number with
interrupt 3, the floating point zero with interrupt 6, or the exact value cut off (00_scope.md R30, R36). -/
structure FloatRule (w : Nat) (overflows underflows negative : Prop) (v d : Int) (r : FloatResult) : Prop where
  /-- Overflow with a positive sign. -/
  largest : overflows → ¬negative → r = ⟨⟨twoPow (w - 1) - 1, 127⟩, .overflow⟩
  /-- Overflow with a negative sign. -/
  smallest : overflows → negative → r = ⟨⟨-twoPow (w - 1), 127⟩, .overflow⟩
  /-- Underflow. -/
  zero : ¬overflows → underflows → r = ⟨⟨0, 0⟩, .underflow⟩
  /-- Neither. -/
  exact : ¬overflows → ¬underflows → r.request = .none ∧ CutOff w v d r.value

/-- The value of a sum or difference in the scale of `scaledValue`, the operand with the smaller exponent aligned, its
lost bits cut off downwards; the alignment is left out where an operand is zero (46_add_subtract.md R433). -/
def alignedSum (subtract : Bool) (a o : Unpacked) : Int :=
  let add := fun x y : Int => if subtract then x - y else x + y
  if a.m = 0 ∨ o.m = 0 then add (scaledValue a) (scaledValue o)
  else
    let e := max a.e o.e
    add (Int.fdiv a.m (twoPow (e - a.e).toNat)) (Int.fdiv o.m (twoPow (e - o.e).toNat)) * twoPow (e + 128).toNat

/-- The rule of a sum or difference: overflow where the exponent would exceed 127, underflow where it would fall below
-128 (00_scope.md R30, 46_add_subtract.md R433). -/
def SumRule (w : Nat) (subtract : Bool) (a o : Unpacked) (r : FloatResult) : Prop :=
  let v := alignedSum subtract a o
  FloatRule w (twoPow (w + 254) ≤ v ∨ v < -twoPow (w + 254)) (v ≠ 0 ∧ -twoPow (w - 2) ≤ v ∧ v < twoPow (w - 2))
    (v < 0) v 1 r

/-- The rule of a product (00_scope.md R30, 47_multiply_divide.md R484). The underflow test on the sum of the
exponents comes before the normalization. -/
def ProductRule (w : Nat) (a o : Unpacked) (r : FloatResult) : Prop :=
  let n := a.e + o.e
  let v := scaledValue a * scaledValue o
  let d := twoPow (w + 127)
  FloatRule w (127 < n ∨ n = 127 ∧ a.m = -twoPow (w - 1) ∧ o.m = -twoPow (w - 1))
    (n < -128 ∨ v ≠ 0 ∧ -twoPow (w - 2) * d ≤ v ∧ v < twoPow (w - 2) * d) (a.m < 0 ∧ 0 ≤ o.m ∨ 0 ≤ a.m ∧ o.m < 0) v d r

/-- The rule of a quotient (00_scope.md R30, 47_multiply_divide.md R488): a zero divisor overflows; the tests on the
difference of the exponents come before the mantissas are divided. -/
def QuotientRule (w : Nat) (a o : Unpacked) (r : FloatResult) : Prop :=
  let n := a.e - o.e
  FloatRule w (127 < n ∨ o.m = 0 ∨ n = 127 ∧ o.m.natAbs ≤ a.m.natAbs) (n < -128 ∨ n = -128 ∧ 2 * a.m = -o.m)
    (a.m < 0 ∧ 0 ≤ o.m ∨ 0 ≤ a.m ∧ o.m < 0)
    ((if o.m < 0 then -scaledValue a else scaledValue a) * twoPow (w + 127)) (scaledValue o).natAbs r

/-! ### The invariant of the machine -/

/-- What every state of a run from reset satisfies. -/
structure Sound (s : State) : Prop where
  /-- Memory has its canonical form. -/
  canonical : Memory.wf s.mem = true
  /-- Memory holds only bytes of words that exist (20_memory.md R131). -/
  present : ∀ cell ∈ s.mem, s.cfg.isPresent (cell.1 / 2) = true
  /-- The fault register has only implemented bits (10_state.md R63, 00_scope.md R10). -/
  faults : s.ft &&& ~~~s.cfg.faultBits = 0#16
  /-- The address state names a page register group that exists (60_exceptions.md R608). -/
  addressState : s.as.toNat < s.cfg.groups
  /-- The bits that a page register does not have read as zero (10_state.md R75). -/
  pages : ∀ g p : Nibble, s.pri[g.toNat][p.toNat] &&& ~~~pageMask s.cfg = 0#16 ∧
    s.pro[g.toNat][p.toNat] &&& ~~~pageMask s.cfg = 0#16
  /-- Only pending interrupts are held (60_exceptions.md R627). -/
  held : s.pihold &&& ~~~s.pir = 0#16
  /-- The interrupt code registers hold a channel number (10_state.md R80). -/
  codes : s.io.ioic1.toNat < 128 ∧ s.io.ioic2.toNat < 128
  /-- The block protection and direct memory access are on only where they exist. -/
  options : (s.mpen = true → s.cfg.hasMprot = true) ∧ (s.io.dmaen = true → s.cfg.hasDma = true)

end Sys2Proof.Claims
end

