-- ==== Sys2Proof/Certificates/Slice0/Obligations.lean ====
section
/-! DEFINITION. The statements about the machine, for the provers. The vocabulary is Sys2Proof/Safety.lean's:
`Completes i s ic regs cs requests stored` says that `exec i s` answers a next state, what that state's IC, registers,
CS, requests and stored words are, and that everything else is as it was. -/

open Sys2Proof Sys2Proof.Machine Sys2Proof.Claims

/-! ### Encoding and the step -/

/-- A step that is not halted, and recognises no interrupt or stands directly after a BEX, runs the instruction that the
words at IC decode to, on the state after they are read (30_encoding.md R171, R172, R179), and ends it: the enable of an
earlier ENBL (60_exceptions.md R626), the release of the bits held since before the step (R627). The instruction after a
BEX runs with any interrupt pending (43_jump_branch.md R348; log 29). -/
def Obligations.StepRunsDecodedInstruction : Prop :=
  ∀ (s : State) (w0 w1 : Word) (i : Instr) (e1 e2 t : State),
    let e := { s.applyEvents with atExecutive := false }
    e.halted = false → s.applyEvents.atExecutive = true ∨ e.recognised = none → e.fetchWord e.ic = (.ok w0, e1) →
    (if isLong w0 = true then e1.fetchWord (e.ic + 1) = (.ok w1, e2) else e2 = e1) →
    decode w0 w1 = some i → exec i e2 = .next t →
    wellFormed i = true ∧
    step s = .next { t with
      inten := t.inten || (e.endly && t.endly)
      endly := t.endly && !e.endly
      pihold := t.pihold &&& ~~~e.pihold }

/-- A few words, one of each format and of each family, decode to the instructions they stand for
(30_encoding.md R173 to R178). -/
def Obligations.SampleWordsDecode : Prop :=
  decode 0x0110 0x0000 = some (.lb 13 0x10) ∧ decode 0x4005 0x0000 = some (.lbx 12 5) ∧
  decode 0x4A31 0xFFFE = some (.aim 3 0xFFFE) ∧ decode 0x8112 0x0000 = some (.lr 1 2) ∧
  decode 0x823F 0x0000 = some (.lisp 3 16) ∧ decode 0x6031 0x0000 = some (.sll 1 4) ∧
  decode 0x8012 0x1000 = some (.l 1 0x1000 2) ∧ decode 0x74FE 0x0000 = some (.br 0xFE) ∧
  decode 0x9010 0x1000 = some (.st 1 0x1000 0) ∧ decode 0xA3F0 0x1000 = some (.incm 16 0x1000 0) ∧
  decode 0xC502 0x0000 = some (.mr 0 2) ∧ decode 0xE412 0x1000 = some (.xor 1 0x1000 2) ∧
  decode 0xF410 0x1000 = some (.cbl 1 0x1000 0) ∧ decode 0x5A12 0x0000 = some (.svbr 1 2) ∧
  decode 0x4831 0xA000 = some (.xio 3 0xA000 1) ∧ decode 0x7702 0x0000 = some (.bex 2) ∧
  decode 0x7712 0x0000 = none ∧ decode 0xFF00 0x0000 = some .nop ∧ decode 0xFFFF 0x0000 = some .bpt ∧
  decode 0xFF01 0x0000 = none ∧ decode 0x6400 0x0000 = none

/-- Decoding the words of any well-formed instruction gives it back, with every operand at every value
(30_encoding.md R173 to R178, R196 to R209, R216). -/
def Obligations.EncodedInstructionsDecode : Prop :=
  ∀ i : Instr, wellFormed i = true → decodeWords (encode i) = some i

/-- Words that decode to an instruction are the words of that instruction, and it is well-formed: a word has one
meaning and no bit of it is dropped (30_encoding.md R172, R179, R211). -/
def Obligations.DecodedWordsEncode : Prop :=
  ∀ (w0 w1 : Word) (i : Instr), decode w0 w1 = some i →
    wellFormed i = true ∧ encode i = if isLong w0 then [w0, w1] else [w0]

/-- The first words that are not defined are exactly those of R210 and R211, whatever the second word is; executing one
aborts the step with fault 9, IC one word on, the second word not fetched (30_encoding.md R210, R211; 60_exceptions.md
R601, R602). -/
def Obligations.UndefinedInstructions : Prop :=
  (∀ w0 w1 : Word, decode w0 w1 = none ↔
    (w0.extractLsb' 8 8).toNat ∈
      [0x44, 0x45, 0x46, 0x47, 0x4B, 0x4C, 0x4D, 0x4E, 0x4F, 0x5B, 0x5D, 0x5F, 0x64, 0x69, 0x95, 0xAD, 0xAE, 0xAF,
       0xBD, 0xBE, 0xBF, 0xCC, 0xCD, 0xCE, 0xCF, 0xDC, 0xDD, 0xDE, 0xDF, 0xEE, 0xEF, 0xF5, 0xFC, 0xFD, 0xFE] ∨
    (w0.extractLsb' 8 8 = 0x4A#8 ∧ (w0.extractLsb' 0 4 = 0#4 ∨ 12#4 ≤ w0.extractLsb' 0 4)) ∨
    (w0.extractLsb' 8 8 = 0xFF#8 ∧ w0.extractLsb' 0 8 ≠ 0x00#8 ∧ w0.extractLsb' 0 8 ≠ 0xFF#8) ∨
    ((w0.extractLsb' 8 8).toNat ∈ [0x77, 0x7C, 0x7D] ∧ w0.extractLsb' 4 4 ≠ 0#4) ∨
    ((w0.extractLsb' 8 8).toNat ∈ [0x7F, 0xEC] ∧ w0.extractLsb' 0 4 ≠ 0#4)) ∧
  ∀ (s : State) (w0 : Word) (e1 : State),
    let e := { s.applyEvents with atExecutive := false }
    e.halted = false → s.applyEvents.atExecutive = true ∨ e.recognised = none → e.fetchWord e.ic = (.ok w0, e1) →
    decode w0 0#16 = none →
    step s = .next { aborted e1 (e.ic + 1) 9 none with
      inten := e.inten || e.endly
      endly := false
      pihold := 0#16 }

/-- A fault on the fetch of an instruction's first word leaves IC one word on, a fault on the second word of a two
word instruction leaves it two words on; nothing of the instruction happens (30_encoding.md R171; 20_memory.md R124,
R125, R131, R135; 60_exceptions.md R601). Each fetch is made in the state after the DMA accesses before it (log 17). -/
def Obligations.FetchFaultAborts : Prop :=
  ∀ (s : State) (k : CpuFault), s.applyEvents.halted = false →
    s.applyEvents.atExecutive = true ∨ s.applyEvents.recognised = none →
    let e := { s.applyEvents with atExecutive := false }
    let word := fun la : Word => (⟨la, .instruction, e.as⟩ : MemRef)
    let leaves := fun (u : State) (ic la : Word) => ({ aborted u ic k.bit (some (word la)) with
      inten := e.inten || e.endly
      endly := false
      pihold := 0#16 } : State)
    (e.awaitBus.readFault (word e.ic) e.ps = some k → step s = .next (leaves e.awaitBus (e.ic + 1) e.ic)) ∧
    ∀ (w0 : Word) (e1 : State), e.fetchWord e.ic = (.ok w0, e1) → isDefined w0 = true → isLong w0 = true →
      e1.awaitBus.readFault (word (e.ic + 1)) e.ps = some k →
      step s = .next (leaves e1.awaitBus (e.ic + 2) (e.ic + 1))

/-! ### The machine as a whole -/

/-- The machine right after reset is sound. -/
def Obligations.ResetIsSound : Prop := Sound State.reset

/-- Every step from a sound state ends in a sound state, with the same configuration. -/
def Obligations.StepKeepsSound : Prop :=
  ∀ s t : State, Sound s → step s = .next t → Sound t ∧ t.cfg = s.cfg

/-- Every instruction in every state, and every step, answers a next state: no fault and no refusal stops this model.
That it is total is the model's own choice: the log's entry 18, with entries 2 and 3, which give a value to every
register and byte that nothing has written, where the spec recommends a stop of the model (70_reset_and_hazards.md
R662, 93_implementation_defined.md U8). The faults of the machine are no stops: 60_exceptions.md R591, R601. -/
def Obligations.StepAlwaysCompletes : Prop :=
  (∀ (i : Instr) (s : State), ∃ t, exec i s = .next t) ∧ ∀ s : State, ∃ t, step s = .next t

/-- The machine right after reset: every register and latch that 70_reset_and_hazards.md gives a value, those of Table
VI (R661), those that Table VI does not list (R665), and the normal power up discrete, since `State.reset` is the
machine after power up (R666, log 7). -/
def Obligations.ResetValues : Prop :=
  AfterReset State.reset ∧ State.reset.cfg.hasNpu = true ∧ State.reset.io.npu = true

/-- A program whose PS is not 0 cannot change what the privileged instructions guard: only BEX, which enters the
executive, changes the mask, the enable latches, PS, AS, the page registers, the protect RAM, the timers or the
interfaces (60_exceptions.md R650, 10_state.md R60). -/
def Obligations.UserStateIsConfined : Prop :=
  ∀ (i : Instr) (s t : State), s.ps ≠ 0#4 → (∀ n, i ≠ .bex n) → exec i s = .next t →
    t.mkr = s.mkr ∧ t.inten = s.inten ∧ t.endly = s.endly ∧ t.pihold = s.pihold ∧
    t.sw.extractLsb' 0 12 = s.sw.extractLsb' 0 12 ∧ t.pri = s.pri ∧ t.pro = s.pro ∧ t.mpr = s.mpr ∧
    t.mpen = s.mpen ∧ t.suen = s.suen ∧ t.timers = s.timers ∧ t.io = s.io ∧ t.console = s.console ∧
    t.cfg = s.cfg ∧ t.env = s.env ∧ t.ft &&& s.ft = s.ft ∧ t.pir &&& s.pir = s.pir

/-- Every instruction but the jumps, branches, status loads, BEX and MOV leaves IC at the next instruction, whether
it completes or is aborted (10_state.md R56, 60_exceptions.md R601). -/
def Obligations.CounterReachesNextInstruction : Prop :=
  ∀ (i : Instr) (s t : State), redirects i = false → exec i s = .next t →
    t.ic = s.ic + BitVec.ofNat 16 (encode i).length

/-! ### Memory -/

/-- A stored word reads back, every other word reads as before, the canonical form is kept, and two memories in
canonical form whose bytes read alike are the same memory. The form of memory is the model's choice: the log's entries
3 and 4. -/
def Obligations.StoredWordReadsBack : Prop :=
  (∀ (m : Memory) (pa pb : Nat) (w : Word), Memory.wf m = true →
    Memory.wf (Memory.setWord m pa w) = true ∧
    Memory.word (Memory.setWord m pa w) pb = if pb = pa then w else Memory.word m pb) ∧
  ∀ m n : Memory, Memory.wf m = true → Memory.wf n = true → (∀ a, Memory.byte m a = Memory.byte n a) → m = n

/-- The address state selects the page register group, the kind of the reference the set within it, the four high bits
of the logical address the page register, whose page address is put before the twelve low bits; without expanded memory
the logical address is the physical one; every fetch and every operand reference of an instruction is made in the
address state of the status word (20_memory.md R121). That a fetch is an instruction reference and an operand read an
operand reference is R122, which the spec derives; that each is made after the DMA accesses that `State.awaitBus` lets
fall before it is the model's choice, the log's entry 17. -/
def Obligations.AddressTranslation : Prop :=
  ∀ (s : State) (la : Word),
    s.operandRef la = ⟨la, .operand, s.as⟩ ∧ s.as.toNat = s.sw.toNat % 16 ∧
    s.fetchWord la = (s.awaitBus.readWord ⟨la, .instruction, s.as⟩ s.ps, s.awaitBus) ∧
    s.read la = (s.awaitBus.readWord ⟨la, .operand, s.as⟩ s.ps, s.awaitBus) ∧
    (s.cfg.xmem = true → ∀ g : Nibble,
      s.physical ⟨la, .instruction, g⟩ =
        (s.pri[g.toNat][la.toNat / 4096]'(by omega)).toNat % 256 * 4096 + la.toNat % 4096 ∧
      s.physical ⟨la, .operand, g⟩ =
        (s.pro[g.toNat][la.toNat / 4096]'(by omega)).toNat % 256 * 4096 + la.toNat % 4096) ∧
    (s.cfg.xmem = false → ∀ r : MemRef, s.physical r = r.la.toNat)

/-- Which fault a reference meets: lock, then E or W bit, then block protect, then presence (20_memory.md R123 to
R126, R130, R131, R133, R134), and for a read then parity. The parity clause is the model's choice, the log's entry
16: R132 leaves parity to the environment and R134 lists no parity check; the model keeps a list of the words gone
bad, checks it after presence, and never for a word that the start up ROM answers. -/
def Obligations.ReferenceFaults : Prop :=
  ∀ (s : State) (r : MemRef) (key : Nibble),
    let lock : Nibble := (s.pageRegister r).extractLsb' 12 4
    let locked := s.cfg.xmem = true ∧ s.cfg.xmemLock = true ∧ ¬(lock = 0xF#4 ∨ key = 0#4 ∨ key = lock)
    let barred := s.cfg.xmem = true ∧ (s.pageRegister r).getMsbD 4 = true
    let block := s.cfg.hasMprot = true ∧ s.mpen = true ∧
      (s.mpr[s.physical r / 16384]?.getD 0#16).getMsbD (s.physical r / 1024 % 16) = true
    let rom := s.cfg.hasSurom = true ∧ s.suen = true ∧ s.physical r < s.cfg.surom.length ∧ s.physical r < 65536
    (s.writeFault r key = some .protection ↔ locked ∨ barred ∨ block) ∧
    (s.writeFault r key = some .illegalAddress ↔
      ¬(locked ∨ barred ∨ block) ∧ s.cfg.isPresent (s.physical r) = false) ∧
    (s.writeFault r key = none ↔ ¬(locked ∨ barred ∨ block) ∧ s.cfg.isPresent (s.physical r) = true) ∧
    (s.readFault r key = some .protection ↔ locked ∨ (r.kind = .instruction ∧ barred)) ∧
    (s.readFault r key = some .illegalAddress ↔
      ¬(locked ∨ (r.kind = .instruction ∧ barred)) ∧ ¬rom ∧ s.cfg.isPresent (s.physical r) = false) ∧
    (s.readFault r key = some .parity ↔
      ¬(locked ∨ (r.kind = .instruction ∧ barred)) ∧ ¬rom ∧ s.cfg.isPresent (s.physical r) = true ∧
      s.cfg.hasParity = true ∧ s.physical r ∈ s.badParity)

/-! ### Interrupts and faults -/

/-- The interrupt that is recognised is the one of the lowest number among those pending, not held, not masked
unless they are 0 or 5, and with interrupts disabled only 0, 1 and 5 (60_exceptions.md R622, R623). -/
def Obligations.RecognisedInterrupt : Prop :=
  ∀ s : State,
    let eligible := fun n : Nat => s.pir.getMsbD n = true ∧ s.pihold.getMsbD n = false ∧
      (s.mkr.getMsbD n = true ∨ n = 0 ∨ n = 5) ∧ (s.inten = true ∨ n = 0 ∨ n = 1 ∨ n = 5)
    (∀ n, s.recognised = some n ↔ n < 16 ∧ eligible n ∧ ∀ k, k < n → ¬eligible k) ∧
    (s.recognised = none ↔ ∀ n, n < 16 → ¬eligible n)

/-- A step that recognises an interrupt, and does not stand directly after a BEX (43_jump_branch.md R348; log 29),
performs its sequence (60_exceptions.md R611, R624, R625, R628): the old mask, status word and counter in the linkage
block, the new ones from the service block. -/
def Obligations.InterruptIsTaken : Prop :=
  ∀ (s : State) (n : Nat), s.applyEvents.halted = false → s.applyEvents.atExecutive = false →
    s.applyEvents.recognised = some n → Enterable s.applyEvents n 0#4 →
    ∃ t, step s = .next t ∧ Entered s.applyEvents t n 0#4 s.applyEvents.ic

/-- A reference of the interrupt sequence that is refused abandons the sequence there, in a step that takes an
interrupt and in BEX: a refused read leaves the mask, the status word, the counter, the enables and memory as they
were; a refused linkage store leaves the new ones in force, the earlier stores made and interrupts disabled; the fault
and its reference are recorded, the request is consumed (60_exceptions.md R624, R629; 43_jump_branch.md R348). That the
abandoned sequence of interrupt 12 or 14 freezes no code register is no sentence of R629: it is the model's choice, the
log's entry 20; so is that an abandoned BEX holds no boundary, entry 29. Without DMA accesses in between (log 17) the
sequence is entered or this happens. -/
def Obligations.InterruptSequenceFault : Prop :=
  (∀ (s : State) (n : Nat), s.applyEvents.halted = false → s.applyEvents.atExecutive = false →
    s.applyEvents.recognised = some n → s.applyEvents.bus = [] → ¬Enterable s.applyEvents n 0#4 →
    ∃ t, step s = .next t ∧ SequenceFault s.applyEvents n 0#4 s.applyEvents.ic t) ∧
  ∀ (s : State) (n : Nibble), s.bus = [] → ¬Enterable s 5 n →
    ∃ t, exec (.bex n) s = .next t ∧ SequenceFault s 5 n (s.ic + 1) t

/-- BEX enters the executive through the vector of interrupt 5, the entry chosen by N, saving the address of the next
instruction, in any program state, and no other interrupt is taken between it and the first instruction of the
executive: a step that begins there, unless it is halted, is the step of an instruction, whatever is pending; nothing
but a BEX makes such a boundary, and the step of that instruction ends it unless it is a BEX (43_jump_branch.md R348,
60_exceptions.md R624). That R348 holds there against R623 and R628, and that only a reset or power up between the two
cancels it, is the log's entry 29. -/
def Obligations.BranchToExecutive : Prop :=
  (∀ (s : State) (n : Nibble), Enterable s 5 n →
    ∃ t, exec (.bex n) s = .next { t with atExecutive := true } ∧ Entered s t 5 n (s.ic + 1)) ∧
  (∀ s : State, s.applyEvents.halted = false → s.applyEvents.atExecutive = true →
    step s = instructionStep { s.applyEvents with atExecutive := false }) ∧
  (∀ (s : State) (i : Instr) (t : State), (∀ n, i ≠ .bex n) → exec i s = .next t → t.atExecutive = s.atExecutive) ∧
  (∀ (s : State) (e : Event), e ≠ .reset → e ≠ .powerUp → (s.applyEvent e).atExecutive = s.atExecutive) ∧
  ∀ s t : State, s.applyEvents.halted = false → step s = .next t → t.atExecutive = true →
    ∃ n u, ({ s.applyEvents with atExecutive := false } : State).fetch = .instruction (.bex n) u

/-- LST and LSTI return to a saved context: mask, status word and counter from three words, an address state that
does not exist recording fault 11, everything else as it was (43_jump_branch.md R353, R354; 60_exceptions.md R608,
R630). -/
def Obligations.LoadStatusReturns : Prop :=
  ∀ (s : State) (i : Instr) (addr : Word) (rx : Reg) (q : Operand),
    (i = .lst addr rx ∧ q = .direct addr rx ∨ i = .lsti addr rx ∧ q = .indirect addr rx) →
    s.ps = 0#4 → q.Readable s 3 →
    ∃ da t, q.address s = some da ∧ exec i s = .next t ∧
      t.mkr = s.wordAt da ∧ LoadsStatus s t (s.wordAt (da + 1)) s.pir ∧ t.ic = s.wordAt (da + 2) ∧
      { t with mkr := s.mkr, sw := s.sw, ft := s.ft, pir := s.pir, ic := s.ic } = s

/-- XIO, VIO, LST and LSTI with PS not 0 are aborted by fault 10 before anything else of them happens, and no other
instruction, and none of them with PS = 0, sets the privileged instruction bit (60_exceptions.md R650). That IC is
then the next instruction is R601's own choice (D5; the log's entry 19). -/
def Obligations.PrivilegedInstructionFaults : Prop :=
  (∀ (i : Instr) (s : State), Privileged i → s.ps ≠ 0#4 → exec i s = .next (aborted s (s.ic + 2) 10 none)) ∧
  ∀ (i : Instr) (s t : State), exec i s = .next t → t.ft.getMsbD 10 = true →
    s.ft.getMsbD 10 = true ∨ (Privileged i ∧ s.ps ≠ 0#4)

/-- An instruction one of whose operand reads is refused, the first of them or a later one, is aborted: no register,
no flag and no memory changes, the fault and the reference that met it are recorded, and IC is at the next instruction
(30_encoding.md R193; 20_memory.md R124, R131, R132, R135, R140; 60_exceptions.md R601). `ReadsInOrder` lists the
reads of every instruction that reads an operand: every mode, the pointer of an indirect mode, every word of an
operand of several. No DMA access falls among them (log 17). -/
def Obligations.UnreadableOperandAborts : Prop :=
  ∀ (i : Instr) (s : State) (len : Word) (before after : List Word) (la : Word) (k : CpuFault),
    ReadsInOrder s i len (before ++ la :: after) → s.bus = [] →
    (∀ b ∈ before, s.readFault (s.operandRef b) s.ps = none) → s.readFault (s.operandRef la) s.ps = some k →
    exec i s = .next (aborted s (s.ic + len) k.bit (some (s.operandRef la)))

/-- An instruction one of whose operand writes is refused, the first of them or a later one, is aborted: the words
before it stay stored, that word and those after it are not, no register and no flag changes, the fault and the
reference are recorded, and IC is at the next instruction (20_memory.md R126, R130, R131, R135, R141; 60_exceptions.md
R601). `StoresInOrder` lists the writes of every instruction that writes memory. No DMA access falls among them (log
17). -/
def Obligations.RefusedStoreAborts : Prop :=
  ∀ (i : Instr) (s : State) (len : Word) (before after : List (Word × Word)) (la w : Word) (k : CpuFault),
    StoresInOrder s i len (before ++ (la, w) :: after) → s.bus = [] →
    (∀ b ∈ before, s.writeFault (s.operandRef b.1) s.ps = none) → s.writeFault (s.operandRef la) s.ps = some k →
    exec i s = .next (aborted (s.storeAll (before.map fun b => (s.target b.1, b.2))) (s.ic + len) k.bit
      (some (s.operandRef la)))

/-- A DMA access may fall between two references of one instruction, and so between the read and the write of one that
replaces a word in memory: the write stores the whole word computed from what was read before, and nothing falls
between the two of TSB (20_memory.md R151, R153). That the accesses wait in a list, one list for each reference to
come, is the model's way to say when they fall: the log's entry 17. -/
def Obligations.DmaBetweenReferences : Prop :=
  (∀ s : State, s.bus = [] → s.awaitBus = s) ∧
  (∀ (s : State) (now : List DmaAccess) (later : List (List DmaAccess)), s.bus = now :: later →
    s.awaitBus = now.foldl State.dmaAccess { s with bus := later }) ∧
  (∀ (s : State) (i : Instr) (q : Operand) (f : Word → Word), ModifyForm s i q f →
    let p := match q with
      | .indirect _ _ => s.awaitBus
      | _ => s
    let r := p.awaitBus
    let w := r.awaitBus
    ∀ da, (∀ addr rx, q = .indirect addr rx → p.readFault (p.operandRef (s.direct addr rx)) p.ps = none) →
      q.address p = some da → r.readFault (r.operandRef da) r.ps = none → w.writeFault (w.operandRef da) w.ps = none →
      exec i s = .next { w.storePhysical (w.target da) (f (r.wordAt da)) with ic := s.ic + 2 }) ∧
  (∀ (s : State) (n : Nat) (addr : Word) (rx : Reg),
    let r := s.awaitBus
    let w := r.awaitBus
    let da := s.direct addr rx
    r.readFault (r.operandRef da) r.ps = none → w.writeFault (w.operandRef da) w.ps = none →
    ∃ t u, exec (.incm n addr rx) s = .next t ∧ exec (.decm n addr rx) s = .next u ∧
      t.mem = (w.storePhysical (w.target da) (r.wordAt da + BitVec.ofNat 16 n)).mem ∧
      u.mem = (w.storePhysical (w.target da) (r.wordAt da - BitVec.ofNat 16 n)).mem) ∧
  ∀ (s : State) (n : Nibble) (addr : Word) (rx : Reg),
    let r := s.awaitBus
    let da := s.direct addr rx
    r.readFault (r.operandRef da) r.ps = none → r.writeFault (r.operandRef da) r.ps = none →
    ∃ t, exec (.tsb n addr rx) s = .next t ∧ t.bus = r.bus ∧
      t.mem = (r.storePhysical (r.target da) (r.wordAt da ||| bitMask n.toNat)).mem

/-- What the events of the environment do: the requests of interrupts, with the channel in the code register unless it
is frozen (60_exceptions.md R614, R616), the timers (R640), the faults found outside (R603), DMA under its half of the
block protect words (20_memory.md R130, R131), the lines and the console, reset and power up (70_reset_and_hazards.md
R660, R661, R665, R666), and that a step applies in order those that come before it. The model's choices are those of
the log's entries: 8 (go ticks), 9 (the schedule), 10 (what a reset keeps), 14 and 15 (console and ports), 16
(parity), 17 (the faults of DMA), 27 (the console's attachment), 29 (a reset ends the boundary after a BEX). -/
def Obligations.EnvironmentEvents : Prop :=
  ∀ s : State,
    let fault := fun n : Nat =>
      ({ s with ft := s.ft ||| (bitMask n &&& s.cfg.faultBits), pir := s.pir ||| 0x4000#16 } : State)
    (s.env = [] → s.applyEvents = s) ∧
    (∀ now later, s.env = now :: later → s.applyEvents = now.foldl State.applyEvent { s with env := later }) ∧
    s.applyEvent .powerDown = { s with pir := s.pir ||| 0x8000#16 } ∧
    (∀ p ∈ [(SpareInterrupt.two, 0x2000#16), (.eight, 0x0080#16), (.ten, 0x0020#16), (.eleven, 0x0010#16),
        (.thirteen, 0x0004#16), (.fifteen, 0x0001#16)],
      s.applyEvent (.extInterrupt p.1) = { s with pir := s.pir ||| p.2 }) ∧
    (∀ channel : BitVec 7,
      s.applyEvent (.ioInterrupt .one channel) = (if s.cfg.hasIoint1 = true then
        { s with pir := s.pir ||| 0x0008#16,
                 io := if s.cfg.hasIoic = true ∧ s.io.frz1 = false then { s.io with ioic1 := channel.setWidth 16 }
                   else s.io } else s) ∧
      s.applyEvent (.ioInterrupt .two channel) = (if s.cfg.hasIoint2 = true then
        { s with pir := s.pir ||| 0x0002#16,
                 io := if s.cfg.hasIoic = true ∧ s.io.frz2 = false then { s.io with ioic2 := channel.setWidth 16 }
                   else s.io } else s)) ∧
    (s.applyEvent .tickA = if s.cfg.hasTimers = true ∧ s.timers.taRun = true ∧ s.halted = false then
      { s with timers := { s.timers with ta := s.timers.ta + 1 },
               pir := if s.timers.ta = 0xFFFF#16 then s.pir ||| 0x0100#16 else s.pir } else s) ∧
    (s.applyEvent .tickB = if s.cfg.hasTimers = true ∧ s.timers.tbRun = true ∧ s.halted = false then
      { s with timers := { s.timers with tb := s.timers.tb + 1 },
               pir := if s.timers.tb = 0xFFFF#16 then s.pir ||| 0x0040#16 else s.pir } else s) ∧
    (∀ p ∈ [(OutsideFault.dmaProtection, 1), (.memoryParity, 2), (.pioParity, 3), (.dmaParity, 4),
        (.pioTransmission, 6), (.builtInTest, 13), (.spareBite14, 14), (.spareBite15, 15)],
      s.applyEvent (.extFault p.1) = fault p.2) ∧
    (∀ (pa : BitVec 20) (w : Word),
      let barred := pa.toNat < s.cfg.physicalWords ∧ s.cfg.hasMprot = true ∧ s.mpen = true ∧
        (s.mpr[64 + pa.toNat / 16384]?.getD 0#16).getMsbD (pa.toNat / 1024 % 16) = true
      let rom := s.cfg.hasSurom = true ∧ s.suen = true ∧ pa.toNat < s.cfg.surom.length ∧ pa.toNat < 65536
      (¬(s.cfg.hasDma = true ∧ s.io.dmaen = true) →
        s.applyEvent (.dma (.write pa w)) = s ∧ s.applyEvent (.dma (.read pa)) = s) ∧
      (s.cfg.hasDma = true → s.io.dmaen = true →
        (barred → s.applyEvent (.dma (.write pa w)) = fault 1) ∧
        (¬barred → s.cfg.isPresent pa.toNat = false → s.applyEvent (.dma (.write pa w)) = fault 8) ∧
        (¬barred → s.cfg.isPresent pa.toNat = true →
          s.applyEvent (.dma (.write pa w)) = s.storePhysical pa.toNat w) ∧
        (rom → s.applyEvent (.dma (.read pa)) = s) ∧
        (¬rom → s.cfg.isPresent pa.toNat = false → s.applyEvent (.dma (.read pa)) = fault 8) ∧
        (¬rom → s.cfg.isPresent pa.toNat = true → s.applyEvent (.dma (.read pa)) =
          if s.cfg.hasParity = true ∧ pa.toNat ∈ s.badParity then fault 2 else s))) ∧
    (∀ v, s.applyEvent (.discreteIn v) = { s with io := { s.io with din := v } }) ∧
    (∀ b, s.applyEvent (.consoleInput b) = { s with console := { s.console with input := s.console.input ++ [b] } }) ∧
    s.applyEvent .consoleRestart = { s with halted := false } ∧
    (∀ v, s.applyEvent (.consoleStatus v) = { s with console := { s.console with status := v } }) ∧
    (∀ b, s.applyEvent (.consoleConnect b) = { s with console := { s.console with connected := b } }) ∧
    (∀ code w, s.applyEvent (.portInput code w) = { s with io := { s.io with portIn := s.io.portIn ++ [(code, w)] } }) ∧
    s.applyEvent .goTick = (if s.io.goCount ≤ 1 then { s with io := { s.io with goCount := 0, goHigh := false } }
      else { s with io := { s.io with goCount := s.io.goCount - 1 } }) ∧
    (∀ pa : BitVec 20, ∃ t, s.applyEvent (.parityDamage pa) = t ∧ { t with badParity := s.badParity } = s ∧
      ∀ pb, pb ∈ t.badParity ↔ pb = pa.toNat ∨ pb ∈ s.badParity) ∧
    (∀ e ∈ [Event.reset, .powerUp], let t := s.applyEvent e
      AfterReset t ∧ t.atExecutive = false ∧ t.cfg = s.cfg ∧ t.mem = s.mem ∧ t.badParity = s.badParity ∧
      t.env = s.env ∧ t.bus = s.bus ∧
      t.freeCount = s.freeCount ∧ t.io.din = s.io.din ∧ t.io.portIn = s.io.portIn ∧ t.io.portOut = s.io.portOut ∧
      t.console.connected = s.console.connected) ∧
    (s.applyEvent .reset).io.npu = s.io.npu ∧ (s.applyEvent .powerUp).io.npu = (s.io.npu || s.cfg.hasNpu)

/-! ### Loads and stores -/

/-- The single precision loads LR, LB, LBX, LISP, LISN, L, LIM, LI, the byte loads LUB, LUBI, LLB, LLBI, the double
loads DLR, DLB, DLBX, DL, DLI and the extended load EFL (44_load.md R370 to R383, R385, R392 to R395). -/
def Obligations.LoadResult : Prop :=
  (∀ (i : Instr) (acc : Reg) (len : Word) (q : Operand) (s : State), LoadForm i acc len q → q.Readable s 1 →
    Completes i s (s.ic + len) (putWord s acc (q.word s)) (condition (q.word s).toInt) 0 []) ∧
  (∀ (i : Instr) (acc : Reg) (upper : Bool) (q : Operand) (s : State), LoadByteForm i acc upper q → q.Readable s 1 →
    let v : Word := upperByte (s.reg acc) ++ (if upper then upperByte (q.word s) else lowerByte (q.word s))
    Completes i s (s.ic + 2) (putWord s acc v) (condition v.toInt) 0 []) ∧
  (∀ (i : Instr) (acc : Reg) (len : Word) (q : Operand) (s : State), LoadPairForm i acc len q → q.Readable s 2 →
    Completes i s (s.ic + len) (putPair s acc (q.double s)) (condition (q.double s).toInt) 0 []) ∧
  ∀ (ra : Reg) (addr : Word) (rx : Reg) (s : State), s.Readable (s.direct addr rx) 3 →
    Completes (.efl ra addr rx) s (s.ic + 2) (putTriple s ra (s.tripleAt (s.direct addr rx)))
      (condition (s.tripleAt (s.direct addr rx)).toInt) 0 []

/-- LM loads R0 to RN, and POPM the registers RA to RB off the stack, each from its word, R15 being the stack pointer
and never loaded; CS stays (44_load.md R384, R396). -/
def Obligations.LoadMultipleResult : Prop :=
  (∀ (n : Nibble) (addr : Word) (rx : Reg) (s : State), s.Readable (s.direct addr rx) (n.toNat + 1) →
    Completes (.lm n addr rx) s (s.ic + 2)
      (fun r => if r ≤ n then s.wordAt (s.direct addr rx + r.setWidth 16) else s.reg r) s.cs 0 []) ∧
  ∀ (ra rb : Reg) (s : State), s.Readable (s.reg 15) ((rb - ra).toNat + 1) →
    Completes (.popm ra rb) s (s.ic + 1)
      (fun r => if r = 15 then s.reg 15 + (rb - ra).setWidth 16 + 1
        else if r - ra ≤ rb - ra then s.wordAt (s.reg 15 + (r - ra).setWidth 16) else s.reg r) s.cs 0 []

/-- The stores of one, two or three registers STB, STBX, ST, STI, DSTB, DSTX, DST, DSTI, EFST, of a constant STC, STCI,
and STM of R0 to RN (45_store.md R401 to R406, R410 to R413, R415, R416). -/
def Obligations.StoreResult : Prop :=
  (∀ (i : Instr) (len : Word) (q : Operand) (rs : List Reg) (s : State), StoreForm i len q rs →
    q.Writable s rs.length → ∃ da, q.address s = some da ∧
      Completes i s (s.ic + len) s.reg s.cs 0
        (rs.zipIdx.map fun p => (s.target (da + BitVec.ofNat 16 p.2), s.reg p.1))) ∧
  (∀ (i : Instr) (n : Nibble) (q : Operand) (s : State), StoreConstantForm i n q → q.Writable s 1 →
    ∃ da, q.address s = some da ∧
      Completes i s (s.ic + 2) s.reg s.cs 0 [(s.target da, BitVec.ofNat 16 n.toNat)]) ∧
  ∀ (n : Nibble) (addr : Word) (rx : Reg) (s : State), s.Writable (s.direct addr rx) (n.toNat + 1) →
    Completes (.stm n addr rx) s (s.ic + 2) s.reg s.cs 0
      ((List.range (n.toNat + 1)).map fun k =>
        (s.target (s.direct addr rx + BitVec.ofNat 16 k), s.reg (BitVec.ofNat 4 k)))

/-- SB, SBI, RB, RBI, SRM, STUB, SUBI, STLB and SLBI replace the word at their derived address and set no flag
(41_bit.md R291, R293, R294, R296; 45_store.md R414, R422 to R425). -/
def Obligations.ModifyWordResult : Prop :=
  ∀ (s : State) (i : Instr) (q : Operand) (f : Word → Word), ModifyForm s i q f → q.Readable s 1 → q.Writable s 1 →
    ∃ da, q.address s = some da ∧
      Completes i s (s.ic + 2) s.reg s.cs 0 [(s.target da, f (s.wordAt da))]

/-- PSHM stores the registers from RB down to RA, each one word below the one before, the word for R15 being the
stack pointer already decremented for it, and leaves R15 at the last (45_store.md R426). -/
def Obligations.PushMultipleResult : Prop :=
  ∀ (ra rb : Reg) (s : State),
    (∀ k, k < (rb - ra).toNat + 1 → s.Writable (s.reg 15 - 1 - BitVec.ofNat 16 k) 1) →
    Completes (.pshm ra rb) s (s.ic + 1) (putWord s 15 (s.reg 15 - 1 - (rb - ra).setWidth 16)) s.cs 0
      ((List.range ((rb - ra).toNat + 1)).map fun k =>
        (s.target (s.reg 15 - 1 - BitVec.ofNat 16 k),
         if rb - BitVec.ofNat 4 k = 15 then s.reg 15 - 1 - BitVec.ofNat 16 k else s.reg (rb - BitVec.ofNat 4 k)))

/-- MOV with no register of RB among RA and RA+1 moves one word in a step, IC staying at it until the count is used
up; with a count of zero it moves nothing (45_store.md R409). -/
def Obligations.MoveMultipleResult : Prop :=
  (∀ (ra rb : Reg) (s : State), s.reg (ra + 1) = 0#16 →
    Completes (.mov ra rb) s (s.ic + 1) s.reg s.cs 0 []) ∧
  ∀ (ra rb : Reg) (s : State), rb ≠ ra → rb ≠ ra + 1 → s.reg (ra + 1) ≠ 0#16 →
    s.Readable (s.reg rb) 1 → s.Writable (s.reg ra) 1 →
    Completes (.mov ra rb) s (if s.reg (ra + 1) = 1#16 then s.ic + 1 else s.ic)
      (fun r => if r = ra then s.reg ra + 1 else if r = ra + 1 then s.reg (ra + 1) - 1
        else if r = rb then s.reg rb + 1 else s.reg r) s.cs 0
      [(s.target (s.reg ra), s.wordAt (s.reg rb))]

/-- MOV whose registers overlap, which the standard does not address: the word stored, and the final RA, RA+1 and RB,
are open; everything else is fixed, the model's own count of free values apart: one word is stored, at the physical
address of the word that RA names before the step, and its parity is good again (log 16). The model's choice: the
log's entry 13. -/
def Obligations.OverlappingMoveResult : Prop :=
  ∀ (ra rb : Reg) (s : State), (rb = ra ∨ rb = ra + 1) → s.reg (ra + 1) ≠ 0#16 →
    s.Readable (s.reg rb) 1 → s.Writable (s.reg ra) 1 →
    ∃ t, exec (.mov ra rb) s = .next t ∧ t.ic = (if t.reg (ra + 1) = 0#16 then s.ic + 1 else s.ic) ∧
      (∀ r, r ≠ ra → r ≠ ra + 1 → t.reg r = s.reg r) ∧
      (∀ a, a / 2 ≠ s.target (s.reg ra) → Memory.byte t.mem a = Memory.byte s.mem a) ∧
      t.badParity = s.badParity.filter (fun pa => pa != s.target (s.reg ra)) ∧
      { t with ic := s.ic, regs := s.regs, mem := s.mem, badParity := s.badParity, freeCount := s.freeCount } = s

/-! ### Bits and shifts -/

/-- SBR, RBR, SVBR and RVBR set or clear one bit of a register and set no flag; TB, TBI, TBR and TVBR set CS from one
bit: zero if it is clear, negative if it is bit 0, else positive; TSB does so and stores the word with the bit set
(41_bit.md R290, R292, R295, R297 to R303). -/
def Obligations.BitResult : Prop :=
  let status := fun (w : Word) (n : Nibble) =>
    if w.getMsbD n.toNat = false then 0b0010#4 else if n = 0 then 0b0001#4 else 0b0100#4
  (∀ (s : State) (i : Instr) (rb : Reg) (n : Nibble) (set : Bool), RegisterBitForm s i rb n set →
    ∃ v : Word, (∀ k, k < 16 → v.getMsbD k = if k = n.toNat then set else (s.reg rb).getMsbD k) ∧
      Completes i s (s.ic + 1) (putWord s rb v) s.cs 0 []) ∧
  (∀ (s : State) (i : Instr) (n : Nibble) (len : Word) (q : Operand), TestBitForm s i n len q → q.Readable s 1 →
    Completes i s (s.ic + len) s.reg (status (q.word s) n) 0 []) ∧
  ∀ (s : State) (n : Nibble) (addr : Word) (rx : Reg), s.Readable (s.direct addr rx) 1 →
    s.Writable (s.direct addr rx) 1 →
    Completes (.tsb n addr rx) s (s.ic + 2) s.reg (status (s.wordAt (s.direct addr rx)) n) 0
      [(s.target (s.direct addr rx), s.wordAt (s.direct addr rx) ||| bitMask n.toNat)]

/-- SLL, SRL, SRA, SLC, DSLL, DSRL, DSRA and DSLC: the register or pair times or divided by a power of two, or turned,
and CS from it; and their words: the first byte, the count minus one, the register (42_shift.md R310 to R319). -/
def Obligations.ShiftResult : Prop :=
  (∀ (i : Instr) (op : Byte) (rb : Reg) (n : Nat) (f : Word → Nat → Word) (s : State), ShiftForm i op rb n f →
    wellFormed i = true →
    encode i = [op ++ BitVec.ofNat 4 (n - 1) ++ rb] ∧ 1 ≤ n ∧ n ≤ 16 ∧
    Completes i s (s.ic + 1) (putWord s rb (f (s.reg rb) n)) (condition (f (s.reg rb) n).toInt) 0 []) ∧
  ∀ (i : Instr) (op : Byte) (rb : Reg) (n : Nat) (f : Double → Nat → Double) (s : State), ShiftPairForm i op rb n f →
    wellFormed i = true →
    encode i = [op ++ BitVec.ofNat 4 (n - 1) ++ rb] ∧ 1 ≤ n ∧ n ≤ 16 ∧
    Completes i s (s.ic + 1) (putPair s rb (f (s.reg rb ++ s.reg (rb + 1)) n))
      (condition (f (s.reg rb ++ s.reg (rb + 1)) n).toInt) 0 []

/-- SLR, SAR, SCR, DSLR, DSAR and DSCR: a count in RB above 0 shifts left, below 0 right; a count beyond the width
requests interrupt 4 and does nothing else; SAR and DSAR request it when a left shift changes the sign
(42_shift.md R320 to R326). -/
def Obligations.CountedShiftResult : Prop :=
  ∀ (ra rb : Reg) (s : State),
    let c := (s.reg rb).toInt
    let v := s.reg ra
    let d : Double := s.reg ra ++ s.reg (ra + 1)
    let word := fun (i : Instr) (w : Word) (overflow : Bool) =>
      Completes i s (s.ic + 1) (putWord s ra w) (condition w.toInt) (request overflow 4) []
    let pair := fun (i : Instr) (w : Double) (overflow : Bool) =>
      Completes i s (s.ic + 1) (putPair s ra w) (condition w.toInt) (request overflow 4) []
    (16 < c.natAbs → ∀ i ∈ [Instr.slr ra rb, .sar ra rb, .scr ra rb],
      Completes i s (s.ic + 1) s.reg s.cs (request true 4) []) ∧
    (32 < c.natAbs → ∀ i ∈ [Instr.dslr ra rb, .dsar ra rb, .dscr ra rb],
      Completes i s (s.ic + 1) s.reg s.cs (request true 4) []) ∧
    (0 < c → c ≤ 16 → word (.slr ra rb) (BitVec.ofInt 16 (v.toInt * twoPow c.toNat)) false ∧
      word (.sar ra rb) (BitVec.ofInt 16 (v.toInt * twoPow c.toNat)) (exceedsWord (v.toInt * twoPow c.toNat)) ∧
      word (.scr ra rb) (v.rotateLeft c.toNat) false) ∧
    (c ≤ 0 → -16 ≤ c → word (.slr ra rb) (BitVec.ofInt 16 (v.toNat / twoPow c.natAbs)) false ∧
      word (.sar ra rb) (BitVec.ofInt 16 (Int.fdiv v.toInt (twoPow c.natAbs))) false ∧
      word (.scr ra rb) (v.rotateRight c.natAbs) false) ∧
    (0 < c → c ≤ 32 → pair (.dslr ra rb) (BitVec.ofInt 32 (d.toInt * twoPow c.toNat)) false ∧
      pair (.dsar ra rb) (BitVec.ofInt 32 (d.toInt * twoPow c.toNat)) (exceedsDouble (d.toInt * twoPow c.toNat)) ∧
      pair (.dscr ra rb) (d.rotateLeft c.toNat) false) ∧
    (c ≤ 0 → -32 ≤ c → pair (.dslr ra rb) (BitVec.ofInt 32 (d.toNat / twoPow c.natAbs)) false ∧
      pair (.dsar ra rb) (BitVec.ofInt 32 (Int.fdiv d.toInt (twoPow c.natAbs))) false ∧
      pair (.dscr ra rb) (d.rotateRight c.natAbs) false)

/-! ### Jumps -/

/-- BR, BEZ, BLT, BLE, BGT, BNZ and BGE go to their own address plus the signed displacement when CS allows it; JC and
JCI go to their derived address when the condition is 7 or F or shares a bit with CS; otherwise the next instruction
follows; and the words of each (43_jump_branch.md R341, R342, R345 to R347, R349 to R352). That the single bits of CS
are tested is the spec's own decision D30 of R340, not the standard's words. -/
def Obligations.BranchResult : Prop :=
  (∀ (i : Instr) (op d : Byte) (taken : Bool) (s : State),
    BranchForm (s.sw.getMsbD 1) (s.sw.getMsbD 2) (s.sw.getMsbD 3) i op d taken →
    encode i = [op ++ d] ∧
    Completes i s (if taken then s.ic + BitVec.ofInt 16 d.toInt else s.ic + 1) s.reg s.cs 0 []) ∧
  ∀ (c : Nibble) (addr : Word) (rx : Reg) (s : State),
    let taken := c = 7#4 ∨ c = 15#4 ∨ c &&& s.cs ≠ 0#4
    encode (.jc c addr rx) = [0x70#8 ++ c ++ rx, addr] ∧ encode (.jci c addr rx) = [0x71#8 ++ c ++ rx, addr] ∧
    Completes (.jc c addr rx) s (if taken then s.direct addr rx else s.ic + 2) s.reg s.cs 0 [] ∧
    (s.Readable (s.direct addr rx) 1 →
      Completes (.jci c addr rx) s (if taken then s.wordAt (s.direct addr rx) else s.ic + 2) s.reg s.cs 0 [])

/-- JS and SJS save the address of the next instruction, in a register and on the stack; URS takes it back; SOJ
subtracts one from a register and jumps while it is not zero; each address is derived before a register changes
(43_jump_branch.md R343, R344, R355, R356). -/
def Obligations.SubroutineResult : Prop :=
  ∀ (ra : Reg) (addr : Word) (rx : Reg) (s : State),
    Completes (.js ra addr rx) s (s.direct addr rx) (putWord s ra (s.ic + 2)) s.cs 0 [] ∧
    Completes (.soj ra addr rx) s (if s.reg ra = 1#16 then s.ic + 2 else s.direct addr rx)
      (putWord s ra (s.reg ra - 1)) (condition (s.reg ra - 1).toInt) 0 [] ∧
    (s.Writable (s.reg ra - 1) 1 →
      Completes (.sjs ra addr rx) s (s.direct addr rx) (putWord s ra (s.reg ra - 1)) s.cs 0
        [(s.target (s.reg ra - 1), s.ic + 2)]) ∧
    (s.Readable (s.reg ra) 1 →
      Completes (.urs ra) s (s.wordAt (s.reg ra)) (putWord s ra (s.reg ra + 1)) s.cs 0 [])

/-! ### Fixed point arithmetic -/

/-- AR, AB, ABX, AISP, A, AIM and SR, SBB, SBBX, SISP, S, SIM: the low sixteen bits of the exact sum or difference, CS
with the carry out or the absence of a borrow, and interrupt 4 if the exact result is no single precision number; DAR,
DA, DSR and DS, the same with pairs (46_add_subtract.md R430 to R432, R435 to R440, R444, R445, R453 to R458, R462,
R463). -/
def Obligations.AddSubtractResult : Prop :=
  (∀ (i : Instr) (acc : Reg) (len : Word) (q : Operand) (s : State), AddForm i acc len q → q.Readable s 1 →
    let exact := (s.reg acc).toInt + (q.word s).toInt
    Completes i s (s.ic + len) (putWord s acc (BitVec.ofInt 16 exact))
      (withCarry (65536 ≤ (s.reg acc).toNat + (q.word s).toNat) (condition (BitVec.ofInt 16 exact).toInt))
      (request (exceedsWord exact) 4) []) ∧
  (∀ (i : Instr) (acc : Reg) (len : Word) (q : Operand) (s : State), SubtractForm i acc len q → q.Readable s 1 →
    let exact := (s.reg acc).toInt - (q.word s).toInt
    Completes i s (s.ic + len) (putWord s acc (BitVec.ofInt 16 exact))
      (withCarry ((q.word s).toNat ≤ (s.reg acc).toNat) (condition (BitVec.ofInt 16 exact).toInt))
      (request (exceedsWord exact) 4) []) ∧
  (∀ (i : Instr) (acc : Reg) (len : Word) (q : Operand) (s : State), TwoForms .dar .da i acc len q →
    q.Readable s 2 →
    let a : Double := s.reg acc ++ s.reg (acc + 1)
    let exact := a.toInt + (q.double s).toInt
    Completes i s (s.ic + len) (putPair s acc (BitVec.ofInt 32 exact))
      (withCarry (4294967296 ≤ a.toNat + (q.double s).toNat) (condition (BitVec.ofInt 32 exact).toInt))
      (request (exceedsDouble exact) 4) []) ∧
  ∀ (i : Instr) (acc : Reg) (len : Word) (q : Operand) (s : State), TwoForms .dsr .ds i acc len q → q.Readable s 2 →
    let a : Double := s.reg acc ++ s.reg (acc + 1)
    let exact := a.toInt - (q.double s).toInt
    Completes i s (s.ic + len) (putPair s acc (BitVec.ofInt 32 exact))
      (withCarry ((q.double s).toNat ≤ a.toNat) (condition (BitVec.ofInt 32 exact).toInt))
      (request (exceedsDouble exact) 4) []

/-- INCM and DECM add a count to a word of memory or subtract it, with CS and interrupt 4 as in a register; no
register changes (46_add_subtract.md R441, R459). -/
def Obligations.IncrementMemoryResult : Prop :=
  ∀ (n : Nat) (addr : Word) (rx : Reg) (s : State), 1 ≤ n → n ≤ 16 → s.Readable (s.direct addr rx) 1 →
    s.Writable (s.direct addr rx) 1 →
    let w := s.wordAt (s.direct addr rx)
    Completes (.incm n addr rx) s (s.ic + 2) s.reg
      (withCarry (65536 ≤ w.toNat + n) (condition (BitVec.ofInt 16 (w.toInt + n)).toInt))
      (request (exceedsWord (w.toInt + n)) 4) [(s.target (s.direct addr rx), BitVec.ofInt 16 (w.toInt + n))] ∧
    Completes (.decm n addr rx) s (s.ic + 2) s.reg
      (withCarry (n ≤ w.toNat) (condition (BitVec.ofInt 16 (w.toInt - n)).toInt))
      (request (exceedsWord (w.toInt - n)) 4) [(s.target (s.direct addr rx), BitVec.ofInt 16 (w.toInt - n))]

/-- ABS, NEG, DABS and DNEG: the absolute value or the negative, the most negative number staying as it is with
interrupt 4 requested (46_add_subtract.md R442, R443, R460, R461). -/
def Obligations.AbsoluteNegateResult : Prop :=
  ∀ (ra rb : Reg) (s : State),
    let w := (s.reg rb).toInt
    let d := (s.reg rb ++ s.reg (rb + 1) : Double).toInt
    let word := fun (i : Instr) (x : Int) =>
      Completes i s (s.ic + 1) (putWord s ra (BitVec.ofInt 16 x)) (condition (BitVec.ofInt 16 x).toInt)
        (request (exceedsWord x) 4) []
    let pair := fun (i : Instr) (x : Int) =>
      Completes i s (s.ic + 1) (putPair s ra (BitVec.ofInt 32 x)) (condition (BitVec.ofInt 32 x).toInt)
        (request (exceedsDouble x) 4) []
    word (.abs ra rb) w.natAbs ∧ word (.neg ra rb) (-w) ∧ pair (.dabs ra rb) d.natAbs ∧ pair (.dneg ra rb) (-d)

/-- MSR, MISP, MISN, MS, MSIM keep the low sixteen bits of the product and request interrupt 4 if it does not fit; MR,
MB, MBX, M, MIM put the whole product in a pair and request nothing (47_multiply_divide.md R481, R482, R489 to
R498). -/
def Obligations.MultiplyResult : Prop :=
  (∀ (i : Instr) (acc : Reg) (len : Word) (q : Operand) (s : State), MultiplyWordForm i acc len q →
    q.Readable s 1 →
    let exact := (s.reg acc).toInt * (q.word s).toInt
    Completes i s (s.ic + len) (putWord s acc (BitVec.ofInt 16 exact)) (condition (BitVec.ofInt 16 exact).toInt)
      (request (exceedsWord exact) 4) []) ∧
  ∀ (i : Instr) (acc : Reg) (len : Word) (q : Operand) (s : State), MultiplyForm i acc len q → q.Readable s 1 →
    let exact := (s.reg acc).toInt * (q.word s).toInt
    Completes i s (s.ic + len) (putPair s acc (BitVec.ofInt 32 exact)) (condition exact) 0 []

/-- DVR, DISP, DISN, DV, DVIM and DR, DB, DBX, D, DIM: the quotient cut off toward zero in the accumulator, the
remainder, of the dividend's sign, in the next register; a zero divisor gives zeros and interrupt 4, and so does a
quotient that does not fit, with its low bits (47_multiply_divide.md R485, R486, R507 to R516). -/
def Obligations.DivideWordResult : Prop :=
  let divides := fun (i : Instr) (acc : Reg) (len : Word) (q : Operand) (s : State) (a : Int) =>
    let b := (q.word s).toInt
    (b = 0 → Completes i s (s.ic + len) (putTwo s acc 0 0) 0b0010#4 (request true 4) []) ∧
    (b ≠ 0 → Completes i s (s.ic + len) (putTwo s acc (BitVec.ofInt 16 (Int.tdiv a b)) (BitVec.ofInt 16 (Int.tmod a b)))
      (condition (BitVec.ofInt 16 (Int.tdiv a b)).toInt) (request (exceedsWord (Int.tdiv a b)) 4) [])
  (∀ (i : Instr) (acc : Reg) (len : Word) (q : Operand) (s : State), DivideWordForm i acc len q → q.Readable s 1 →
    divides i acc len q s (s.reg acc).toInt) ∧
  ∀ (i : Instr) (acc : Reg) (len : Word) (q : Operand) (s : State), DivideForm i acc len q → q.Readable s 1 →
    divides i acc len q s (s.reg acc ++ s.reg (acc + 1) : Double).toInt

/-- DMR, DM keep the low thirty-two bits of the product of two pairs, DDR, DD the quotient cut off toward zero, with
interrupt 4 if it does not fit or the divisor is zero (47_multiply_divide.md R483, R487, R499, R500, R517, R518). -/
def Obligations.MultiplyDivideDoubleResult : Prop :=
  (∀ (i : Instr) (acc : Reg) (len : Word) (q : Operand) (s : State), TwoForms .dmr .dm i acc len q →
    q.Readable s 2 →
    let exact := (s.reg acc ++ s.reg (acc + 1) : Double).toInt * (q.double s).toInt
    Completes i s (s.ic + len) (putPair s acc (BitVec.ofInt 32 exact)) (condition (BitVec.ofInt 32 exact).toInt)
      (request (exceedsDouble exact) 4) []) ∧
  ∀ (i : Instr) (acc : Reg) (len : Word) (q : Operand) (s : State), TwoForms .ddr .dd i acc len q → q.Readable s 2 →
    let exact := Int.tdiv (s.reg acc ++ s.reg (acc + 1) : Double).toInt (q.double s).toInt
    (q.double s = 0#32 → Completes i s (s.ic + len) (putPair s acc 0#32) 0b0010#4 (request true 4) []) ∧
    (q.double s ≠ 0#32 →
      Completes i s (s.ic + len) (putPair s acc (BitVec.ofInt 32 exact)) (condition (BitVec.ofInt 32 exact).toInt)
        (request (exceedsDouble exact) 4) [])

/-! ### Logic, exchange and compare -/

/-- The sixteen logical instructions, XBR and XWR (48_logical_convert_exchange.md R530 to R546, R551, R552). -/
def Obligations.LogicalExchangeResult : Prop :=
  (∀ (i : Instr) (op : Word → Word → Word) (acc : Reg) (len : Word) (q : Operand) (s : State),
    LogicalForm i op acc len q → q.Readable s 1 →
    Completes i s (s.ic + len) (putWord s acc (op (s.reg acc) (q.word s)))
      (condition (op (s.reg acc) (q.word s)).toInt) 0 []) ∧
  (∀ (ra : Reg) (s : State),
    let v : Word := lowerByte (s.reg ra) ++ upperByte (s.reg ra)
    Completes (.xbr ra) s (s.ic + 1) (putWord s ra v) (condition v.toInt) 0 []) ∧
  ∀ (ra rb : Reg) (s : State),
    Completes (.xwr ra rb) s (s.ic + 1)
      (fun r => if r = ra then s.reg rb else if r = rb then s.reg ra else s.reg r)
      (condition (s.reg rb).toInt) 0 []

/-- CR, CB, CBX, CISP, CISN, C, CIM compare words, DCR and DC pairs, as signed numbers, and CBL a register with two
limits; only CS changes (49_compare_nop_bpt.md R560 to R570). -/
def Obligations.CompareResult : Prop :=
  (∀ (i : Instr) (acc : Reg) (len : Word) (q : Operand) (s : State), CompareForm i acc len q → q.Readable s 1 →
    Completes i s (s.ic + len) s.reg (condition ((s.reg acc).toInt - (q.word s).toInt)) 0 []) ∧
  (∀ (i : Instr) (acc : Reg) (len : Word) (q : Operand) (s : State), TwoForms .dcr .dc i acc len q →
    q.Readable s 2 →
    Completes i s (s.ic + len) s.reg
      (condition ((s.reg acc ++ s.reg (acc + 1) : Double).toInt - (q.double s).toInt)) 0 []) ∧
  ∀ (ra : Reg) (addr : Word) (rx : Reg) (s : State), s.Readable (s.direct addr rx) 2 →
    let lower := (s.wordAt (s.direct addr rx)).toInt
    let upper := (s.wordAt (s.direct addr rx + 1)).toInt
    let a := (s.reg ra).toInt
    Completes (.cbl ra addr rx) s (s.ic + 2) s.reg
      (if upper < lower then 0b1000#4 else if a < lower then 0b0001#4 else if upper < a then 0b0100#4 else 0b0010#4)
      0 []

/-! ### Floating point -/

/-- FAR, FAB, FABX, FA, FSR, FSB, FSBX, FS, FMR, FMB, FMBX, FM, FDR, FDB, FDBX and FD, on operands that the standard
allows: the result of the arithmetic in the pair, CS from it, and interrupt 3 or 6; EFAR, EFA, EFSR, EFS, EFMR, EFM,
EFDR and EFD, the same with triples (00_scope.md R30; 46_add_subtract.md R433, R434, R450, R451, R468, R469;
47_multiply_divide.md R484, R488, R505, R506, R523, R524). What the arithmetic gives is the matter of
FloatSumIsAlignedSumCutOff and of the two statements after it. -/
def Obligations.FloatResultWritten : Prop :=
  (∀ (i : Instr) (op : Unpacked → Unpacked → FloatResult) (acc : Reg) (len : Word) (q : Operand) (s : State),
    FloatForm i op acc len q → q.Readable s 2 →
    let a : Double := s.reg acc ++ s.reg (acc + 1)
    isLegalFloat a = true → isLegalFloat (q.double s) = true →
    let r := op (unpackFloat a) (unpackFloat (q.double s))
    Completes i s (s.ic + len) (putPair s acc (packFloat r.value)) (condition (packFloat r.value).toInt)
      (floatRequest r.request) []) ∧
  ∀ (i : Instr) (op : Unpacked → Unpacked → FloatResult) (acc : Reg) (len : Word) (q : Operand) (s : State),
    ExtendedForm i op acc len q → q.Readable s 3 →
    let a : Triple := s.reg acc ++ s.reg (acc + 1) ++ s.reg (acc + 2)
    isLegalFloat a = true → isLegalFloat (q.triple s) = true →
    let r := op (unpackExtended a) (unpackExtended (q.triple s))
    Completes i s (s.ic + len) (putTriple s acc (packExtended r.value)) (condition (packExtended r.value).toInt)
      (floatRequest r.request) []

/-- The floating and extended arithmetic of two normalized numbers or zeros is again normalized or zero, whatever
overflows or underflows, and packing the result loses nothing of it (00_scope.md R25, R26, R30, R31, R34, R35, R36). -/
def Obligations.FloatResultsAreNormalized : Prop :=
  (∀ a d : Double, isLegalFloat a = true → isLegalFloat d = true →
    ∀ op ∈ [addFloat 24, subFloat 24, mulFloat 24, divFloat 24],
      let r := (op (unpackFloat a) (unpackFloat d)).value
      isLegalFloat (packFloat r) = true ∧ unpackFloat (packFloat r) = r) ∧
  ∀ a d : Triple, isLegalFloat a = true → isLegalFloat d = true →
    ∀ op ∈ [addFloat 40, subFloat 40, mulFloat 40, divFloat 40],
      let r := (op (unpackExtended a) (unpackExtended d)).value
      isLegalFloat (packExtended r) = true ∧ unpackExtended (packExtended r) = r

/-- Floating and extended addition and subtraction of normalized numbers or zeros: the sum of the aligned mantissas,
exact but for the bits that the alignment cuts off, cut off downwards to the bits of the mantissa; the largest
positive or smallest negative number with interrupt 3 where the exponent would exceed 127, the floating point zero
with interrupt 6 where it would fall below -128 (00_scope.md R30, R32, R35, R36, R37; 46_add_subtract.md R433). -/
def Obligations.FloatSumIsAlignedSumCutOff : Prop :=
  (∀ a d : Double, isLegalFloat a = true → isLegalFloat d = true →
    SumRule 24 false (unpackFloat a) (unpackFloat d) (addFloat 24 (unpackFloat a) (unpackFloat d)) ∧
    SumRule 24 true (unpackFloat a) (unpackFloat d) (subFloat 24 (unpackFloat a) (unpackFloat d))) ∧
  ∀ a d : Triple, isLegalFloat a = true → isLegalFloat d = true →
    SumRule 40 false (unpackExtended a) (unpackExtended d) (addFloat 40 (unpackExtended a) (unpackExtended d)) ∧
    SumRule 40 true (unpackExtended a) (unpackExtended d) (subFloat 40 (unpackExtended a) (unpackExtended d))

/-- A floating or extended product of normalized numbers or zeros is the exact product cut off downwards to the bits
of the mantissa, but for the forced results of overflow and underflow (00_scope.md R30, R32, R36, R37;
47_multiply_divide.md R484). -/
def Obligations.FloatProductIsExactProductCutOff : Prop :=
  (∀ a d : Double, isLegalFloat a = true → isLegalFloat d = true →
    ProductRule 24 (unpackFloat a) (unpackFloat d) (mulFloat 24 (unpackFloat a) (unpackFloat d))) ∧
  ∀ a d : Triple, isLegalFloat a = true → isLegalFloat d = true →
    ProductRule 40 (unpackExtended a) (unpackExtended d) (mulFloat 40 (unpackExtended a) (unpackExtended d))

/-- A floating or extended quotient of normalized numbers or zeros is the exact quotient cut off downwards to the bits
of the mantissa, but for the forced results of overflow, a zero divisor among its causes, and of underflow
(00_scope.md R30, R32, R36, R37; 47_multiply_divide.md R488). -/
def Obligations.FloatQuotientIsExactQuotientCutOff : Prop :=
  (∀ a d : Double, isLegalFloat a = true → isLegalFloat d = true →
    QuotientRule 24 (unpackFloat a) (unpackFloat d) (divFloat 24 (unpackFloat a) (unpackFloat d))) ∧
  ∀ a d : Triple, isLegalFloat a = true → isLegalFloat d = true →
    QuotientRule 40 (unpackExtended a) (unpackExtended d) (divFloat 40 (unpackExtended a) (unpackExtended d))

/-- FABS and FNEG of an operand that the standard allows are exact, but for -1.0 x 2^127, whose absolute value and
negative overflow, and 0.5 x 2^-128, whose negative underflows (46_add_subtract.md R452, R470). -/
def Obligations.FloatAbsoluteNegateResult : Prop :=
  ∀ (ra rb : Reg) (s : State),
    let d : Double := s.reg rb ++ s.reg (rb + 1)
    let gives := fun (i : Instr) (x : Double) (n : Word) =>
      Completes i s (s.ic + 1) (putPair s ra x) (condition x.toInt) n []
    isLegalFloat d = true →
    (d = 0x8000007F#32 → gives (.fabs ra rb) 0x7FFFFF7F#32 (bitMask 3) ∧
      gives (.fneg ra rb) 0x7FFFFF7F#32 (bitMask 3)) ∧
    (d = 0x40000080#32 → gives (.fneg ra rb) 0#32 (bitMask 6)) ∧
    (d ≠ 0x8000007F#32 → ∃ x : Double, isLegalFloat x = true ∧
      scaledValue (unpackFloat x) = (scaledValue (unpackFloat d)).natAbs ∧ gives (.fabs ra rb) x 0) ∧
    (d ≠ 0x8000007F#32 → d ≠ 0x40000080#32 → ∃ x : Double, isLegalFloat x = true ∧
      scaledValue (unpackFloat x) = -scaledValue (unpackFloat d) ∧ gives (.fneg ra rb) x 0)

/-- FIX and EFIX give the integer part cut off toward zero, or, beyond the range, leave the destination, set CS from it
and request interrupt 4; FLT and EFLT give the number itself, normalized (48_logical_convert_exchange.md R547 to
R550). -/
def Obligations.ConversionResult : Prop :=
  ∀ (ra rb : Reg) (s : State),
    let f : Double := s.reg rb ++ s.reg (rb + 1)
    let e : Triple := s.reg rb ++ s.reg (rb + 1) ++ s.reg (rb + 2)
    (isLegalFloat f = true →
      ((unpackFloat f).e ≤ 15 →
        let v : Word := BitVec.ofInt 16 (Int.tdiv (scaledValue (unpackFloat f)) (twoPow 151))
        v.toInt = Int.tdiv (scaledValue (unpackFloat f)) (twoPow 151) ∧
        Completes (.fix ra rb) s (s.ic + 1) (putWord s ra v) (condition v.toInt) 0 []) ∧
      (15 < (unpackFloat f).e →
        Completes (.fix ra rb) s (s.ic + 1) s.reg (condition (s.reg ra).toInt) (request true 4) [])) ∧
    (isLegalFloat e = true →
      ((unpackExtended e).e ≤ 31 →
        let v : Double := BitVec.ofInt 32 (Int.tdiv (scaledValue (unpackExtended e)) (twoPow 167))
        v.toInt = Int.tdiv (scaledValue (unpackExtended e)) (twoPow 167) ∧
        Completes (.efix ra rb) s (s.ic + 1) (putPair s ra v) (condition v.toInt) 0 []) ∧
      (31 < (unpackExtended e).e →
        Completes (.efix ra rb) s (s.ic + 1) s.reg (condition (s.reg ra ++ s.reg (ra + 1) : Double).toInt)
          (request true 4) [])) ∧
    (∃ x : Double, isLegalFloat x = true ∧ scaledValue (unpackFloat x) = (s.reg rb).toInt * twoPow 151 ∧
      Completes (.flt ra rb) s (s.ic + 1) (putPair s ra x) (condition x.toInt) 0 []) ∧
    ∃ x : Triple, isLegalFloat x = true ∧ scaledValue (unpackExtended x) = f.toInt * twoPow 167 ∧
      Completes (.eflt ra rb) s (s.ic + 1) (putTriple s ra x) (condition x.toInt) 0 []

/-- FCR, FCB, FCBX, FC, EFCR and EFC compare the values of operands that the standard allows, exactly; only CS changes
(49_compare_nop_bpt.md R571 to R576). -/
def Obligations.FloatCompareResult : Prop :=
  (∀ (i : Instr) (acc : Reg) (len : Word) (q : Operand) (s : State), FourForms .fcr .fcb .fcbx .fc i acc len q →
    q.Readable s 2 →
    let a : Double := s.reg acc ++ s.reg (acc + 1)
    isLegalFloat a = true → isLegalFloat (q.double s) = true →
    Completes i s (s.ic + len) s.reg
      (condition (scaledValue (unpackFloat a) - scaledValue (unpackFloat (q.double s)))) 0 []) ∧
  ∀ (i : Instr) (acc : Reg) (len : Word) (q : Operand) (s : State), TwoForms .efcr .efc i acc len q → q.Readable s 3 →
    let a : Triple := s.reg acc ++ s.reg (acc + 1) ++ s.reg (acc + 2)
    isLegalFloat a = true → isLegalFloat (q.triple s) = true →
    Completes i s (s.ic + len) s.reg
      (condition (scaledValue (unpackExtended a) - scaledValue (unpackExtended (q.triple s)))) 0 []

/-- A floating point instruction on an operand that the standard does not allow runs: IC, the registers outside its
result, memory and the rest are as always; its result, CS and interrupts 3, 4 and 6 are open. The model's choice:
the log's entry 12 (93_implementation_defined.md U4). -/
def Obligations.UnnormalizedOperandIsOpen : Prop :=
  let open' := fun (i : Instr) (s : State) (len : Word) (result : List Reg) =>
    ∃ t, exec i s = .next t ∧ t.ic = s.ic + len ∧ (∀ r, r ∉ result → t.reg r = s.reg r) ∧
      t.sw.extractLsb' 0 12 = s.sw.extractLsb' 0 12 ∧
      (∃ extra : Word, t.pir = s.pir ||| extra ∧ extra &&& ~~~(bitMask 3 ||| bitMask 4 ||| bitMask 6) = 0#16) ∧
      { t with ic := s.ic, regs := s.regs, sw := s.sw, pir := s.pir, freeCount := s.freeCount } = s
  (∀ (i : Instr) (op : Unpacked → Unpacked → FloatResult) (acc : Reg) (len : Word) (q : Operand) (s : State),
    FloatForm i op acc len q → q.Readable s 2 →
    (isLegalFloat (s.reg acc ++ s.reg (acc + 1)) = false ∨ isLegalFloat (q.double s) = false) →
    open' i s len [acc, acc + 1]) ∧
  (∀ (i : Instr) (op : Unpacked → Unpacked → FloatResult) (acc : Reg) (len : Word) (q : Operand) (s : State),
    ExtendedForm i op acc len q → q.Readable s 3 →
    (isLegalFloat (s.reg acc ++ s.reg (acc + 1) ++ s.reg (acc + 2)) = false ∨ isLegalFloat (q.triple s) = false) →
    open' i s len [acc, acc + 1, acc + 2]) ∧
  (∀ (i : Instr) (acc : Reg) (len : Word) (q : Operand) (s : State), FourForms .fcr .fcb .fcbx .fc i acc len q →
    q.Readable s 2 →
    (isLegalFloat (s.reg acc ++ s.reg (acc + 1)) = false ∨ isLegalFloat (q.double s) = false) →
    open' i s len []) ∧
  (∀ (i : Instr) (acc : Reg) (len : Word) (q : Operand) (s : State), TwoForms .efcr .efc i acc len q →
    q.Readable s 3 →
    (isLegalFloat (s.reg acc ++ s.reg (acc + 1) ++ s.reg (acc + 2)) = false ∨ isLegalFloat (q.triple s) = false) →
    open' i s len []) ∧
  ∀ (ra rb : Reg) (s : State),
    (isLegalFloat (s.reg rb ++ s.reg (rb + 1)) = false →
      open' (.fabs ra rb) s 1 [ra, ra + 1] ∧ open' (.fneg ra rb) s 1 [ra, ra + 1] ∧ open' (.fix ra rb) s 1 [ra]) ∧
    (isLegalFloat (s.reg rb ++ s.reg (rb + 1) ++ s.reg (rb + 2)) = false → open' (.efix ra rb) s 1 [ra, ra + 1])

/-! ### Input and output, no operation and break point -/

/-- NOP changes IC only; BPT also halts the processor where a console is connected, and is a NOP elsewhere; a step of
a halted processor only applies the events, and the console's restart among them ends the halt (49_compare_nop_bpt.md
R577, R578; 10_state.md R71). -/
def Obligations.NopBreakPointResult : Prop :=
  ∀ s : State, exec .nop s = .next { s with ic := s.ic + 1 } ∧
    exec .bpt s = .next { s with
      ic := s.ic + 1
      halted := if s.cfg.hasConsole = true ∧ s.console.connected = true then true else s.halted } ∧
    (s.applyEvents.halted = true → step s = .next s.applyEvents) ∧
    s.applyEvent .consoleRestart = { s with halted := false }

/-- XIO with a command that delivers a word puts it in RA and changes nothing else, the command being the direct
address; RCFR delivers the fault register and clears it with interrupt 1; RIC1 and RIC2 deliver the code registers and
release them (40_input_output.md R224, R236 to R239, R260 to R265, R267 to R272). PI and a spare input deliver the
first word that waits under their code and take it away; CI takes two bytes of an attached console, the first the more
significant (R235, R266, R273). Where no word or fewer than two bytes wait, the word delivered is open: the model's
choice, the log's entries 14 and 15 (93_implementation_defined.md U6). -/
def Obligations.InputCommandResult : Prop :=
  ∀ (ra : Reg) (cmd : Word) (rx : Reg) (s : State), s.ps = 0#4 →
    let code := s.direct cmd rx
    let openWord := ∃ (v : Word) (n : Nat), exec (.xio ra cmd rx) s =
      .next { s with ic := s.ic + 2, regs := s.regs.set ra.toNat v, freeCount := n }
    (∀ w, Delivers s code w → Completes (.xio ra cmd rx) s (s.ic + 2) (putWord s ra w) s.cs 0 []) ∧
    (code = 0xA00F#16 → exec (.xio ra cmd rx) s = .next
      { s with ic := s.ic + 2, regs := s.regs.set ra.toNat s.ft, ft := 0#16, pir := s.pir &&& ~~~bitMask 1,
               pihold := s.pihold &&& ~~~bitMask 1 }) ∧
    (s.cfg.hasIoic = true → code = 0xA001#16 → exec (.xio ra cmd rx) s = .next
      { s with ic := s.ic + 2, regs := s.regs.set ra.toNat s.io.ioic1, io := { s.io with frz1 := false } }) ∧
    (s.cfg.hasIoic = true → code = 0xA002#16 → exec (.xio ra cmd rx) s = .next
      { s with ic := s.ic + 2, regs := s.regs.set ra.toNat s.io.ioic2, io := { s.io with frz2 := false } }) ∧
    (0x8000 ≤ code.toNat → Answered s.cfg code →
      (∀ before after w, s.io.portIn = before ++ (code, w) :: after → (∀ b ∈ before, b.1 ≠ code) →
        exec (.xio ra cmd rx) s = .next { s with
          ic := s.ic + 2, regs := s.regs.set ra.toNat w, io := { s.io with portIn := before ++ after } }) ∧
      ((∀ b ∈ s.io.portIn, b.1 ≠ code) → openWord)) ∧
    (s.cfg.hasConsole = true → code = 0xC000#16 →
      (∀ b1 b2 rest, s.console.connected = true → s.console.input = b1 :: b2 :: rest →
        exec (.xio ra cmd rx) s = .next { s with
          ic := s.ic + 2, regs := s.regs.set ra.toNat (b1 ++ b2), console := { s.console with input := rest } }) ∧
      (s.console.connected = false ∨ s.console.input.length < 2 → openWord))

/-- XIO with a command of the interrupt system does what the command says with the word in RA, and WSW loads the
status word, an address state that does not exist recording fault 11 (40_input_output.md R224, R228 to R234;
60_exceptions.md R608). -/
def Obligations.ControlCommandResult : Prop :=
  ∀ (ra : Reg) (cmd : Word) (rx : Reg) (s : State), s.ps = 0#4 →
    (∀ t, Controls s (s.reg ra) (s.direct cmd rx) t → exec (.xio ra cmd rx) s = .next { t with ic := s.ic + 2 }) ∧
    (s.direct cmd rx = 0x200E#16 → ∃ t, exec (.xio ra cmd rx) s = .next t ∧ LoadsStatus s t (s.reg ra) s.pir ∧
      t.ic = s.ic + 2 ∧ { t with sw := s.sw, ft := s.ft, pir := s.pir, ic := s.ic } = s)

/-- XIO with a command of a port, memory, the timers, the discretes, direct memory access or the console does what the
command says with the word in RA: PO hands it to its port with its code, and to the buffer that TPIO reads, a spare
output to its device (40_input_output.md R224, R227, R273; what a device does with it is open, the log's entry 15), CO
sends its two bytes to an attached console, the upper first, and does nothing where none is attached (R243, log 14),
CLC clears the console (R244, log 14), GO restarts the go counter (R253; its count is in ticks, log 8), and the rest
as R241, R242, R245 to R259 say. -/
def Obligations.ConfigurationCommandResult : Prop :=
  ∀ (ra : Reg) (cmd : Word) (rx : Reg) (s t : State), s.ps = 0#4 → Configures s (s.reg ra) (s.direct cmd rx) t →
    exec (.xio ra cmd rx) s = .next { t with ic := s.ic + 2 }

/-- XIO with a command that the machine does not implement is aborted by fault 5; with one that it implements it runs,
and sets no illegal command bit (40_input_output.md R225, R226). -/
def Obligations.IllegalCommandFaults : Prop :=
  ∀ (ra : Reg) (cmd : Word) (rx : Reg) (s : State), s.ps = 0#4 →
    (¬Implemented s.cfg (s.direct cmd rx) → exec (.xio ra cmd rx) s = .next (aborted s (s.ic + 2) 5 none)) ∧
    (Implemented s.cfg (s.direct cmd rx) → ∃ t, exec (.xio ra cmd rx) s = .next t ∧ t.ic = s.ic + 2 ∧
      (t.ft.getMsbD 5 = true → s.ft.getMsbD 5 = true))

/-- VIO performs the commands that its select word names, in order, each with the next data word; no register changes
but by what the commands do (40_input_output.md R275). A command that the machine does not implement, or whose data
word cannot be read or stored, has no effect and ends them: VIO is aborted by its fault, what the earlier commands
have done stays done (R276; that an input command whose word cannot be stored releases nothing is the log's entry 24).
-/
def Obligations.VectoredCommandResult : Prop :=
  ∀ (ra : Reg) (addr : Word) (rx : Reg) (s t : State), s.ps = 0#4 → s.Readable (s.direct addr rx) 2 →
    let da := s.direct addr rx
    (VectorRun (s.wordAt da) (s.reg ra) (s.wordAt (da + 1)) 0 (da + 2) { s with ic := s.ic + 2 } t →
      exec (.vio ra addr rx) s = .next t ∧ t.regs = s.regs ∧ t.ic = s.ic + 2 ∧ t.cfg = s.cfg ∧ t.env = s.env) ∧
    ∀ (k : CpuFault) (ref : Option MemRef),
      VectorStops (s.wordAt da) (s.reg ra) (s.wordAt (da + 1)) 0 (da + 2) { s with ic := s.ic + 2 } t k ref →
      exec (.vio ra addr rx) s = .next (aborted t (s.ic + 2) k.bit ref) ∧ t.regs = s.regs ∧ t.cfg = s.cfg ∧
        t.env = s.env
end

