-- ==== Sys2Proof/Laws/Memory.lean ====
section
/-! SUPPORT. What main memory holds after each operation, and that every operation keeps its canonical form. -/

namespace Sys2Proof.Machine

theorem Memory.byte_of_wfFrom {m : Memory} {lo a : Nat} (h : Memory.wfFrom lo m = true) (ha : a < lo) :
    Memory.byte m a = Memory.unlisted := by
  induction m generalizing lo with
  | nil => rfl
  | cons cell rest ih =>
    obtain ⟨k, v⟩ := cell
    simp only [Memory.wfFrom, Bool.and_eq_true, decide_eq_true_eq] at h
    rw [Memory.byte, if_neg (by omega)]
    exact ih h.2 (by omega)

theorem Memory.wfFrom_mono {m : Memory} {lo lo' : Nat} (h : Memory.wfFrom lo m = true) (hl : lo' ≤ lo) :
    Memory.wfFrom lo' m = true := by
  cases m with
  | nil => rfl
  | cons cell rest =>
    obtain ⟨k, v⟩ := cell
    simp only [Memory.wfFrom, Bool.and_eq_true, decide_eq_true_eq] at h ⊢
    exact ⟨⟨by omega, h.1.2⟩, h.2⟩

/-! ### Inserting and removing a cell -/

theorem Memory.byte_insertCell (m : Memory) (a b : Nat) (v : Byte) :
    Memory.byte (Memory.insertCell m a v) b = if b = a then v else Memory.byte m b := by
  induction m with
  | nil => simp [Memory.insertCell, Memory.byte]
  | cons cell rest ih =>
    obtain ⟨k, w⟩ := cell
    simp only [Memory.insertCell]
    split
    · simp [Memory.byte]
    · split
      · subst_vars; simp only [Memory.byte]; split <;> rfl
      · simp only [Memory.byte, ih]; split <;> split <;> simp_all

theorem Memory.wfFrom_insertCell {m : Memory} {lo a : Nat} {v : Byte} (h : Memory.wfFrom lo m = true)
    (ha : lo ≤ a) (hv : v ≠ Memory.unlisted) : Memory.wfFrom lo (Memory.insertCell m a v) = true := by
  induction m generalizing lo with
  | nil => simp [Memory.insertCell, Memory.wfFrom, ha, hv]
  | cons cell rest ih =>
    obtain ⟨k, w⟩ := cell
    simp only [Memory.wfFrom, Bool.and_eq_true, decide_eq_true_eq] at h
    simp only [Memory.insertCell]
    split
    · simp only [Memory.wfFrom, Bool.and_eq_true, decide_eq_true_eq, bne_iff_ne]
      exact ⟨⟨ha, hv⟩, ⟨by omega, bne_iff_ne.mp h.1.2⟩, h.2⟩
    · split
      · subst_vars
        simp only [Memory.wfFrom, Bool.and_eq_true, decide_eq_true_eq, bne_iff_ne]
        exact ⟨⟨ha, hv⟩, h.2⟩
      · simp only [Memory.wfFrom, Bool.and_eq_true, decide_eq_true_eq]
        exact ⟨h.1, ih h.2 (by omega)⟩

theorem Memory.byte_remove (m : Memory) (a b : Nat) :
    Memory.byte (m.filter fun cell => cell.1 != a) b = if b = a then Memory.unlisted else Memory.byte m b := by
  induction m with
  | nil => simp [Memory.byte]
  | cons cell rest ih =>
    obtain ⟨k, w⟩ := cell
    by_cases hk : k = a
    · subst hk
      simp only [List.filter, bne_self_eq_false, ih, Memory.byte]
      split <;> simp_all
    · have hk' : (k != a) = true := bne_iff_ne.mpr hk
      simp only [List.filter, hk', Memory.byte, ih]
      split <;> split <;> simp_all

theorem Memory.wfFrom_remove {m : Memory} {lo : Nat} (h : Memory.wfFrom lo m = true) (a : Nat) :
    Memory.wfFrom lo (m.filter fun cell => cell.1 != a) = true := by
  induction m generalizing lo with
  | nil => rfl
  | cons cell rest ih =>
    obtain ⟨k, w⟩ := cell
    have hr := h
    simp only [Memory.wfFrom, Bool.and_eq_true, decide_eq_true_eq] at h
    by_cases hk : k = a
    · subst hk
      simp only [List.filter, bne_self_eq_false]
      exact Memory.wfFrom_mono (ih h.2) (by omega)
    · have hk' : (k != a) = true := bne_iff_ne.mpr hk
      simp only [List.filter, hk', Memory.wfFrom, Bool.and_eq_true, decide_eq_true_eq]
      exact ⟨h.1, ih h.2⟩

/-! ### Bytes and words -/

/-- A byte set reads back, and every other byte reads as before. -/
theorem Memory.byte_setByte (m : Memory) (a b : Nat) (v : Byte) :
    Memory.byte (Memory.setByte m a v) b = if b = a then v else Memory.byte m b := by
  unfold Memory.setByte
  split
  · subst_vars; exact Memory.byte_remove m a b
  · exact Memory.byte_insertCell m a b v

/-- Setting a byte keeps the canonical form. -/
theorem Memory.wf_setByte {m : Memory} (h : Memory.wf m = true) (a : Nat) (v : Byte) :
    Memory.wf (Memory.setByte m a v) = true := by
  unfold Memory.setByte
  split
  · exact Memory.wfFrom_remove h a
  · exact Memory.wfFrom_insertCell h (Nat.zero_le a) ‹_›

/-- Setting a word keeps the canonical form. -/
theorem Memory.wf_setWord {m : Memory} (h : Memory.wf m = true) (pa : Nat) (w : Word) :
    Memory.wf (Memory.setWord m pa w) = true :=
  Memory.wf_setByte (Memory.wf_setByte h _ _) _ _

/-- The bytes of a word set, and every other byte. -/
theorem Memory.byte_setWord (m : Memory) (pa a : Nat) (w : Word) :
    Memory.byte (Memory.setWord m pa w) a =
      if a = 2 * pa then w.extractLsb' 8 8 else if a = 2 * pa + 1 then w.extractLsb' 0 8 else Memory.byte m a := by
  unfold Memory.setWord
  rw [Memory.byte_setByte, Memory.byte_setByte]
  split <;> split <;> first | rfl | omega

end Sys2Proof.Machine
end

