-- ==== Sys2Proof/Laws/State.lean ====
section
/-! SUPPORT. The fields of the state after each update: one lemma per field per update, true by rfl, so that no proof
unfolds a record update. -/

namespace Sys2Proof.Machine

/-! ### Reset -/

/-- Memory after reset is in the canonical form. -/
theorem State.reset_mem_wf : Memory.wf State.reset.mem = true := rfl

/-! ### setReg -/

@[simp] theorem State.setReg_cfg (s : State) (r : Reg) (v : Word) : (s.setReg r v).cfg = s.cfg := rfl
@[simp] theorem State.setReg_regs (s : State) (r : Reg) (v : Word) : (s.setReg r v).regs = s.regs.set r.toNat v := rfl
@[simp] theorem State.setReg_ic (s : State) (r : Reg) (v : Word) : (s.setReg r v).ic = s.ic := rfl
@[simp] theorem State.setReg_sw (s : State) (r : Reg) (v : Word) : (s.setReg r v).sw = s.sw := rfl
@[simp] theorem State.setReg_ft (s : State) (r : Reg) (v : Word) : (s.setReg r v).ft = s.ft := rfl
@[simp] theorem State.setReg_mkr (s : State) (r : Reg) (v : Word) : (s.setReg r v).mkr = s.mkr := rfl
@[simp] theorem State.setReg_pir (s : State) (r : Reg) (v : Word) : (s.setReg r v).pir = s.pir := rfl
@[simp] theorem State.setReg_inten (s : State) (r : Reg) (v : Word) : (s.setReg r v).inten = s.inten := rfl
@[simp] theorem State.setReg_endly (s : State) (r : Reg) (v : Word) : (s.setReg r v).endly = s.endly := rfl
@[simp] theorem State.setReg_pihold (s : State) (r : Reg) (v : Word) : (s.setReg r v).pihold = s.pihold := rfl
@[simp] theorem State.setReg_halted (s : State) (r : Reg) (v : Word) : (s.setReg r v).halted = s.halted := rfl
@[simp] theorem State.setReg_mem (s : State) (r : Reg) (v : Word) : (s.setReg r v).mem = s.mem := rfl
@[simp] theorem State.setReg_pri (s : State) (r : Reg) (v : Word) : (s.setReg r v).pri = s.pri := rfl
@[simp] theorem State.setReg_pro (s : State) (r : Reg) (v : Word) : (s.setReg r v).pro = s.pro := rfl
@[simp] theorem State.setReg_mfsr (s : State) (r : Reg) (v : Word) : (s.setReg r v).mfsr = s.mfsr := rfl
@[simp] theorem State.setReg_mpr (s : State) (r : Reg) (v : Word) : (s.setReg r v).mpr = s.mpr := rfl
@[simp] theorem State.setReg_mpen (s : State) (r : Reg) (v : Word) : (s.setReg r v).mpen = s.mpen := rfl
@[simp] theorem State.setReg_suen (s : State) (r : Reg) (v : Word) : (s.setReg r v).suen = s.suen := rfl
@[simp] theorem State.setReg_timers (s : State) (r : Reg) (v : Word) : (s.setReg r v).timers = s.timers := rfl
@[simp] theorem State.setReg_io (s : State) (r : Reg) (v : Word) : (s.setReg r v).io = s.io := rfl
@[simp] theorem State.setReg_console (s : State) (r : Reg) (v : Word) : (s.setReg r v).console = s.console := rfl
@[simp] theorem State.setReg_badParity (s : State) (r : Reg) (v : Word) :
    (s.setReg r v).badParity = s.badParity := rfl
@[simp] theorem State.setReg_env (s : State) (r : Reg) (v : Word) : (s.setReg r v).env = s.env := rfl
@[simp] theorem State.setReg_bus (s : State) (r : Reg) (v : Word) : (s.setReg r v).bus = s.bus := rfl
@[simp] theorem State.setReg_freeCount (s : State) (r : Reg) (v : Word) :
    (s.setReg r v).freeCount = s.freeCount := rfl
@[simp] theorem State.setReg_atExecutive (s : State) (r : Reg) (v : Word) :
    (s.setReg r v).atExecutive = s.atExecutive := rfl

/-! ### setPair -/

@[simp] theorem State.setPair_cfg (s : State) (r : Reg) (v : Double) : (s.setPair r v).cfg = s.cfg := rfl
@[simp] theorem State.setPair_ic (s : State) (r : Reg) (v : Double) : (s.setPair r v).ic = s.ic := rfl
@[simp] theorem State.setPair_sw (s : State) (r : Reg) (v : Double) : (s.setPair r v).sw = s.sw := rfl
@[simp] theorem State.setPair_ft (s : State) (r : Reg) (v : Double) : (s.setPair r v).ft = s.ft := rfl
@[simp] theorem State.setPair_mkr (s : State) (r : Reg) (v : Double) : (s.setPair r v).mkr = s.mkr := rfl
@[simp] theorem State.setPair_pir (s : State) (r : Reg) (v : Double) : (s.setPair r v).pir = s.pir := rfl
@[simp] theorem State.setPair_inten (s : State) (r : Reg) (v : Double) : (s.setPair r v).inten = s.inten := rfl
@[simp] theorem State.setPair_endly (s : State) (r : Reg) (v : Double) : (s.setPair r v).endly = s.endly := rfl
@[simp] theorem State.setPair_pihold (s : State) (r : Reg) (v : Double) : (s.setPair r v).pihold = s.pihold := rfl
@[simp] theorem State.setPair_halted (s : State) (r : Reg) (v : Double) : (s.setPair r v).halted = s.halted := rfl
@[simp] theorem State.setPair_mem (s : State) (r : Reg) (v : Double) : (s.setPair r v).mem = s.mem := rfl
@[simp] theorem State.setPair_pri (s : State) (r : Reg) (v : Double) : (s.setPair r v).pri = s.pri := rfl
@[simp] theorem State.setPair_pro (s : State) (r : Reg) (v : Double) : (s.setPair r v).pro = s.pro := rfl
@[simp] theorem State.setPair_mfsr (s : State) (r : Reg) (v : Double) : (s.setPair r v).mfsr = s.mfsr := rfl
@[simp] theorem State.setPair_mpr (s : State) (r : Reg) (v : Double) : (s.setPair r v).mpr = s.mpr := rfl
@[simp] theorem State.setPair_mpen (s : State) (r : Reg) (v : Double) : (s.setPair r v).mpen = s.mpen := rfl
@[simp] theorem State.setPair_suen (s : State) (r : Reg) (v : Double) : (s.setPair r v).suen = s.suen := rfl
@[simp] theorem State.setPair_timers (s : State) (r : Reg) (v : Double) : (s.setPair r v).timers = s.timers := rfl
@[simp] theorem State.setPair_io (s : State) (r : Reg) (v : Double) : (s.setPair r v).io = s.io := rfl
@[simp] theorem State.setPair_console (s : State) (r : Reg) (v : Double) : (s.setPair r v).console = s.console := rfl
@[simp] theorem State.setPair_badParity (s : State) (r : Reg) (v : Double) :
    (s.setPair r v).badParity = s.badParity := rfl
@[simp] theorem State.setPair_env (s : State) (r : Reg) (v : Double) : (s.setPair r v).env = s.env := rfl
@[simp] theorem State.setPair_bus (s : State) (r : Reg) (v : Double) : (s.setPair r v).bus = s.bus := rfl
@[simp] theorem State.setPair_freeCount (s : State) (r : Reg) (v : Double) :
    (s.setPair r v).freeCount = s.freeCount := rfl
@[simp] theorem State.setPair_atExecutive (s : State) (r : Reg) (v : Double) :
    (s.setPair r v).atExecutive = s.atExecutive := rfl

/-! ### setTriple -/

@[simp] theorem State.setTriple_cfg (s : State) (r : Reg) (v : Triple) : (s.setTriple r v).cfg = s.cfg := rfl
@[simp] theorem State.setTriple_ic (s : State) (r : Reg) (v : Triple) : (s.setTriple r v).ic = s.ic := rfl
@[simp] theorem State.setTriple_sw (s : State) (r : Reg) (v : Triple) : (s.setTriple r v).sw = s.sw := rfl
@[simp] theorem State.setTriple_ft (s : State) (r : Reg) (v : Triple) : (s.setTriple r v).ft = s.ft := rfl
@[simp] theorem State.setTriple_mkr (s : State) (r : Reg) (v : Triple) : (s.setTriple r v).mkr = s.mkr := rfl
@[simp] theorem State.setTriple_pir (s : State) (r : Reg) (v : Triple) : (s.setTriple r v).pir = s.pir := rfl
@[simp] theorem State.setTriple_inten (s : State) (r : Reg) (v : Triple) : (s.setTriple r v).inten = s.inten := rfl
@[simp] theorem State.setTriple_endly (s : State) (r : Reg) (v : Triple) : (s.setTriple r v).endly = s.endly := rfl
@[simp] theorem State.setTriple_pihold (s : State) (r : Reg) (v : Triple) : (s.setTriple r v).pihold = s.pihold := rfl
@[simp] theorem State.setTriple_halted (s : State) (r : Reg) (v : Triple) : (s.setTriple r v).halted = s.halted := rfl
@[simp] theorem State.setTriple_mem (s : State) (r : Reg) (v : Triple) : (s.setTriple r v).mem = s.mem := rfl
@[simp] theorem State.setTriple_pri (s : State) (r : Reg) (v : Triple) : (s.setTriple r v).pri = s.pri := rfl
@[simp] theorem State.setTriple_pro (s : State) (r : Reg) (v : Triple) : (s.setTriple r v).pro = s.pro := rfl
@[simp] theorem State.setTriple_mfsr (s : State) (r : Reg) (v : Triple) : (s.setTriple r v).mfsr = s.mfsr := rfl
@[simp] theorem State.setTriple_mpr (s : State) (r : Reg) (v : Triple) : (s.setTriple r v).mpr = s.mpr := rfl
@[simp] theorem State.setTriple_mpen (s : State) (r : Reg) (v : Triple) : (s.setTriple r v).mpen = s.mpen := rfl
@[simp] theorem State.setTriple_suen (s : State) (r : Reg) (v : Triple) : (s.setTriple r v).suen = s.suen := rfl
@[simp] theorem State.setTriple_timers (s : State) (r : Reg) (v : Triple) : (s.setTriple r v).timers = s.timers := rfl
@[simp] theorem State.setTriple_io (s : State) (r : Reg) (v : Triple) : (s.setTriple r v).io = s.io := rfl
@[simp] theorem State.setTriple_console (s : State) (r : Reg) (v : Triple) :
    (s.setTriple r v).console = s.console := rfl
@[simp] theorem State.setTriple_badParity (s : State) (r : Reg) (v : Triple) :
    (s.setTriple r v).badParity = s.badParity := rfl
@[simp] theorem State.setTriple_env (s : State) (r : Reg) (v : Triple) : (s.setTriple r v).env = s.env := rfl
@[simp] theorem State.setTriple_bus (s : State) (r : Reg) (v : Triple) : (s.setTriple r v).bus = s.bus := rfl
@[simp] theorem State.setTriple_freeCount (s : State) (r : Reg) (v : Triple) :
    (s.setTriple r v).freeCount = s.freeCount := rfl
@[simp] theorem State.setTriple_atExecutive (s : State) (r : Reg) (v : Triple) :
    (s.setTriple r v).atExecutive = s.atExecutive := rfl

/-! ### setCs -/

@[simp] theorem State.setCs_cfg (s : State) (c : Nibble) : (s.setCs c).cfg = s.cfg := rfl
@[simp] theorem State.setCs_regs (s : State) (c : Nibble) : (s.setCs c).regs = s.regs := rfl
@[simp] theorem State.setCs_ic (s : State) (c : Nibble) : (s.setCs c).ic = s.ic := rfl
@[simp] theorem State.setCs_sw (s : State) (c : Nibble) : (s.setCs c).sw = c ++ s.sw.extractLsb' 0 12 := rfl
@[simp] theorem State.setCs_ft (s : State) (c : Nibble) : (s.setCs c).ft = s.ft := rfl
@[simp] theorem State.setCs_mkr (s : State) (c : Nibble) : (s.setCs c).mkr = s.mkr := rfl
@[simp] theorem State.setCs_pir (s : State) (c : Nibble) : (s.setCs c).pir = s.pir := rfl
@[simp] theorem State.setCs_inten (s : State) (c : Nibble) : (s.setCs c).inten = s.inten := rfl
@[simp] theorem State.setCs_endly (s : State) (c : Nibble) : (s.setCs c).endly = s.endly := rfl
@[simp] theorem State.setCs_pihold (s : State) (c : Nibble) : (s.setCs c).pihold = s.pihold := rfl
@[simp] theorem State.setCs_halted (s : State) (c : Nibble) : (s.setCs c).halted = s.halted := rfl
@[simp] theorem State.setCs_mem (s : State) (c : Nibble) : (s.setCs c).mem = s.mem := rfl
@[simp] theorem State.setCs_pri (s : State) (c : Nibble) : (s.setCs c).pri = s.pri := rfl
@[simp] theorem State.setCs_pro (s : State) (c : Nibble) : (s.setCs c).pro = s.pro := rfl
@[simp] theorem State.setCs_mfsr (s : State) (c : Nibble) : (s.setCs c).mfsr = s.mfsr := rfl
@[simp] theorem State.setCs_mpr (s : State) (c : Nibble) : (s.setCs c).mpr = s.mpr := rfl
@[simp] theorem State.setCs_mpen (s : State) (c : Nibble) : (s.setCs c).mpen = s.mpen := rfl
@[simp] theorem State.setCs_suen (s : State) (c : Nibble) : (s.setCs c).suen = s.suen := rfl
@[simp] theorem State.setCs_timers (s : State) (c : Nibble) : (s.setCs c).timers = s.timers := rfl
@[simp] theorem State.setCs_io (s : State) (c : Nibble) : (s.setCs c).io = s.io := rfl
@[simp] theorem State.setCs_console (s : State) (c : Nibble) : (s.setCs c).console = s.console := rfl
@[simp] theorem State.setCs_badParity (s : State) (c : Nibble) : (s.setCs c).badParity = s.badParity := rfl
@[simp] theorem State.setCs_env (s : State) (c : Nibble) : (s.setCs c).env = s.env := rfl
@[simp] theorem State.setCs_bus (s : State) (c : Nibble) : (s.setCs c).bus = s.bus := rfl
@[simp] theorem State.setCs_freeCount (s : State) (c : Nibble) : (s.setCs c).freeCount = s.freeCount := rfl
@[simp] theorem State.setCs_atExecutive (s : State) (c : Nibble) : (s.setCs c).atExecutive = s.atExecutive := rfl

/-! ### advance -/

@[simp] theorem State.advance_cfg (s : State) (n : Word) : (s.advance n).cfg = s.cfg := rfl
@[simp] theorem State.advance_regs (s : State) (n : Word) : (s.advance n).regs = s.regs := rfl
@[simp] theorem State.advance_ic (s : State) (n : Word) : (s.advance n).ic = s.ic + n := rfl
@[simp] theorem State.advance_sw (s : State) (n : Word) : (s.advance n).sw = s.sw := rfl
@[simp] theorem State.advance_ft (s : State) (n : Word) : (s.advance n).ft = s.ft := rfl
@[simp] theorem State.advance_mkr (s : State) (n : Word) : (s.advance n).mkr = s.mkr := rfl
@[simp] theorem State.advance_pir (s : State) (n : Word) : (s.advance n).pir = s.pir := rfl
@[simp] theorem State.advance_inten (s : State) (n : Word) : (s.advance n).inten = s.inten := rfl
@[simp] theorem State.advance_endly (s : State) (n : Word) : (s.advance n).endly = s.endly := rfl
@[simp] theorem State.advance_pihold (s : State) (n : Word) : (s.advance n).pihold = s.pihold := rfl
@[simp] theorem State.advance_halted (s : State) (n : Word) : (s.advance n).halted = s.halted := rfl
@[simp] theorem State.advance_mem (s : State) (n : Word) : (s.advance n).mem = s.mem := rfl
@[simp] theorem State.advance_pri (s : State) (n : Word) : (s.advance n).pri = s.pri := rfl
@[simp] theorem State.advance_pro (s : State) (n : Word) : (s.advance n).pro = s.pro := rfl
@[simp] theorem State.advance_mfsr (s : State) (n : Word) : (s.advance n).mfsr = s.mfsr := rfl
@[simp] theorem State.advance_mpr (s : State) (n : Word) : (s.advance n).mpr = s.mpr := rfl
@[simp] theorem State.advance_mpen (s : State) (n : Word) : (s.advance n).mpen = s.mpen := rfl
@[simp] theorem State.advance_suen (s : State) (n : Word) : (s.advance n).suen = s.suen := rfl
@[simp] theorem State.advance_timers (s : State) (n : Word) : (s.advance n).timers = s.timers := rfl
@[simp] theorem State.advance_io (s : State) (n : Word) : (s.advance n).io = s.io := rfl
@[simp] theorem State.advance_console (s : State) (n : Word) : (s.advance n).console = s.console := rfl
@[simp] theorem State.advance_badParity (s : State) (n : Word) : (s.advance n).badParity = s.badParity := rfl
@[simp] theorem State.advance_env (s : State) (n : Word) : (s.advance n).env = s.env := rfl
@[simp] theorem State.advance_bus (s : State) (n : Word) : (s.advance n).bus = s.bus := rfl
@[simp] theorem State.advance_freeCount (s : State) (n : Word) : (s.advance n).freeCount = s.freeCount := rfl
@[simp] theorem State.advance_atExecutive (s : State) (n : Word) : (s.advance n).atExecutive = s.atExecutive := rfl

/-! ### jumpTo -/

@[simp] theorem State.jumpTo_cfg (s : State) (t : Word) : (s.jumpTo t).cfg = s.cfg := rfl
@[simp] theorem State.jumpTo_regs (s : State) (t : Word) : (s.jumpTo t).regs = s.regs := rfl
@[simp] theorem State.jumpTo_ic (s : State) (t : Word) : (s.jumpTo t).ic = t := rfl
@[simp] theorem State.jumpTo_sw (s : State) (t : Word) : (s.jumpTo t).sw = s.sw := rfl
@[simp] theorem State.jumpTo_ft (s : State) (t : Word) : (s.jumpTo t).ft = s.ft := rfl
@[simp] theorem State.jumpTo_mkr (s : State) (t : Word) : (s.jumpTo t).mkr = s.mkr := rfl
@[simp] theorem State.jumpTo_pir (s : State) (t : Word) : (s.jumpTo t).pir = s.pir := rfl
@[simp] theorem State.jumpTo_inten (s : State) (t : Word) : (s.jumpTo t).inten = s.inten := rfl
@[simp] theorem State.jumpTo_endly (s : State) (t : Word) : (s.jumpTo t).endly = s.endly := rfl
@[simp] theorem State.jumpTo_pihold (s : State) (t : Word) : (s.jumpTo t).pihold = s.pihold := rfl
@[simp] theorem State.jumpTo_halted (s : State) (t : Word) : (s.jumpTo t).halted = s.halted := rfl
@[simp] theorem State.jumpTo_mem (s : State) (t : Word) : (s.jumpTo t).mem = s.mem := rfl
@[simp] theorem State.jumpTo_pri (s : State) (t : Word) : (s.jumpTo t).pri = s.pri := rfl
@[simp] theorem State.jumpTo_pro (s : State) (t : Word) : (s.jumpTo t).pro = s.pro := rfl
@[simp] theorem State.jumpTo_mfsr (s : State) (t : Word) : (s.jumpTo t).mfsr = s.mfsr := rfl
@[simp] theorem State.jumpTo_mpr (s : State) (t : Word) : (s.jumpTo t).mpr = s.mpr := rfl
@[simp] theorem State.jumpTo_mpen (s : State) (t : Word) : (s.jumpTo t).mpen = s.mpen := rfl
@[simp] theorem State.jumpTo_suen (s : State) (t : Word) : (s.jumpTo t).suen = s.suen := rfl
@[simp] theorem State.jumpTo_timers (s : State) (t : Word) : (s.jumpTo t).timers = s.timers := rfl
@[simp] theorem State.jumpTo_io (s : State) (t : Word) : (s.jumpTo t).io = s.io := rfl
@[simp] theorem State.jumpTo_console (s : State) (t : Word) : (s.jumpTo t).console = s.console := rfl
@[simp] theorem State.jumpTo_badParity (s : State) (t : Word) : (s.jumpTo t).badParity = s.badParity := rfl
@[simp] theorem State.jumpTo_env (s : State) (t : Word) : (s.jumpTo t).env = s.env := rfl
@[simp] theorem State.jumpTo_bus (s : State) (t : Word) : (s.jumpTo t).bus = s.bus := rfl
@[simp] theorem State.jumpTo_freeCount (s : State) (t : Word) : (s.jumpTo t).freeCount = s.freeCount := rfl
@[simp] theorem State.jumpTo_atExecutive (s : State) (t : Word) : (s.jumpTo t).atExecutive = s.atExecutive := rfl

/-! ### requestIf -/

@[simp] theorem State.requestIf_cfg (s : State) (b : Bool) (n : Nat) : (s.requestIf b n).cfg = s.cfg := rfl
@[simp] theorem State.requestIf_regs (s : State) (b : Bool) (n : Nat) : (s.requestIf b n).regs = s.regs := rfl
@[simp] theorem State.requestIf_ic (s : State) (b : Bool) (n : Nat) : (s.requestIf b n).ic = s.ic := rfl
@[simp] theorem State.requestIf_sw (s : State) (b : Bool) (n : Nat) : (s.requestIf b n).sw = s.sw := rfl
@[simp] theorem State.requestIf_ft (s : State) (b : Bool) (n : Nat) : (s.requestIf b n).ft = s.ft := rfl
@[simp] theorem State.requestIf_mkr (s : State) (b : Bool) (n : Nat) : (s.requestIf b n).mkr = s.mkr := rfl
@[simp] theorem State.requestIf_pir (s : State) (b : Bool) (n : Nat) :
    (s.requestIf b n).pir = s.pir ||| (if b then bitMask n else 0#16) := rfl
@[simp] theorem State.requestIf_inten (s : State) (b : Bool) (n : Nat) : (s.requestIf b n).inten = s.inten := rfl
@[simp] theorem State.requestIf_endly (s : State) (b : Bool) (n : Nat) : (s.requestIf b n).endly = s.endly := rfl
@[simp] theorem State.requestIf_pihold (s : State) (b : Bool) (n : Nat) : (s.requestIf b n).pihold = s.pihold := rfl
@[simp] theorem State.requestIf_halted (s : State) (b : Bool) (n : Nat) : (s.requestIf b n).halted = s.halted := rfl
@[simp] theorem State.requestIf_mem (s : State) (b : Bool) (n : Nat) : (s.requestIf b n).mem = s.mem := rfl
@[simp] theorem State.requestIf_pri (s : State) (b : Bool) (n : Nat) : (s.requestIf b n).pri = s.pri := rfl
@[simp] theorem State.requestIf_pro (s : State) (b : Bool) (n : Nat) : (s.requestIf b n).pro = s.pro := rfl
@[simp] theorem State.requestIf_mfsr (s : State) (b : Bool) (n : Nat) : (s.requestIf b n).mfsr = s.mfsr := rfl
@[simp] theorem State.requestIf_mpr (s : State) (b : Bool) (n : Nat) : (s.requestIf b n).mpr = s.mpr := rfl
@[simp] theorem State.requestIf_mpen (s : State) (b : Bool) (n : Nat) : (s.requestIf b n).mpen = s.mpen := rfl
@[simp] theorem State.requestIf_suen (s : State) (b : Bool) (n : Nat) : (s.requestIf b n).suen = s.suen := rfl
@[simp] theorem State.requestIf_timers (s : State) (b : Bool) (n : Nat) : (s.requestIf b n).timers = s.timers := rfl
@[simp] theorem State.requestIf_io (s : State) (b : Bool) (n : Nat) : (s.requestIf b n).io = s.io := rfl
@[simp] theorem State.requestIf_console (s : State) (b : Bool) (n : Nat) :
    (s.requestIf b n).console = s.console := rfl
@[simp] theorem State.requestIf_badParity (s : State) (b : Bool) (n : Nat) :
    (s.requestIf b n).badParity = s.badParity := rfl
@[simp] theorem State.requestIf_env (s : State) (b : Bool) (n : Nat) : (s.requestIf b n).env = s.env := rfl
@[simp] theorem State.requestIf_bus (s : State) (b : Bool) (n : Nat) : (s.requestIf b n).bus = s.bus := rfl
@[simp] theorem State.requestIf_freeCount (s : State) (b : Bool) (n : Nat) :
    (s.requestIf b n).freeCount = s.freeCount := rfl
@[simp] theorem State.requestIf_atExecutive (s : State) (b : Bool) (n : Nat) :
    (s.requestIf b n).atExecutive = s.atExecutive := rfl

/-! ### recordFault -/

@[simp] theorem State.recordFault_cfg (s : State) (k : Nat) : (s.recordFault k).cfg = s.cfg := rfl
@[simp] theorem State.recordFault_regs (s : State) (k : Nat) : (s.recordFault k).regs = s.regs := rfl
@[simp] theorem State.recordFault_ic (s : State) (k : Nat) : (s.recordFault k).ic = s.ic := rfl
@[simp] theorem State.recordFault_sw (s : State) (k : Nat) : (s.recordFault k).sw = s.sw := rfl
@[simp] theorem State.recordFault_ft (s : State) (k : Nat) :
    (s.recordFault k).ft = s.ft ||| (bitMask k &&& s.cfg.faultBits) := rfl
@[simp] theorem State.recordFault_mkr (s : State) (k : Nat) : (s.recordFault k).mkr = s.mkr := rfl
@[simp] theorem State.recordFault_pir (s : State) (k : Nat) : (s.recordFault k).pir = s.pir ||| bitMask 1 := rfl
@[simp] theorem State.recordFault_inten (s : State) (k : Nat) : (s.recordFault k).inten = s.inten := rfl
@[simp] theorem State.recordFault_endly (s : State) (k : Nat) : (s.recordFault k).endly = s.endly := rfl
@[simp] theorem State.recordFault_pihold (s : State) (k : Nat) : (s.recordFault k).pihold = s.pihold := rfl
@[simp] theorem State.recordFault_halted (s : State) (k : Nat) : (s.recordFault k).halted = s.halted := rfl
@[simp] theorem State.recordFault_mem (s : State) (k : Nat) : (s.recordFault k).mem = s.mem := rfl
@[simp] theorem State.recordFault_pri (s : State) (k : Nat) : (s.recordFault k).pri = s.pri := rfl
@[simp] theorem State.recordFault_pro (s : State) (k : Nat) : (s.recordFault k).pro = s.pro := rfl
@[simp] theorem State.recordFault_mfsr (s : State) (k : Nat) : (s.recordFault k).mfsr = s.mfsr := rfl
@[simp] theorem State.recordFault_mpr (s : State) (k : Nat) : (s.recordFault k).mpr = s.mpr := rfl
@[simp] theorem State.recordFault_mpen (s : State) (k : Nat) : (s.recordFault k).mpen = s.mpen := rfl
@[simp] theorem State.recordFault_suen (s : State) (k : Nat) : (s.recordFault k).suen = s.suen := rfl
@[simp] theorem State.recordFault_timers (s : State) (k : Nat) : (s.recordFault k).timers = s.timers := rfl
@[simp] theorem State.recordFault_io (s : State) (k : Nat) : (s.recordFault k).io = s.io := rfl
@[simp] theorem State.recordFault_console (s : State) (k : Nat) : (s.recordFault k).console = s.console := rfl
@[simp] theorem State.recordFault_badParity (s : State) (k : Nat) : (s.recordFault k).badParity = s.badParity := rfl
@[simp] theorem State.recordFault_env (s : State) (k : Nat) : (s.recordFault k).env = s.env := rfl
@[simp] theorem State.recordFault_bus (s : State) (k : Nat) : (s.recordFault k).bus = s.bus := rfl
@[simp] theorem State.recordFault_freeCount (s : State) (k : Nat) : (s.recordFault k).freeCount = s.freeCount := rfl
@[simp] theorem State.recordFault_atExecutive (s : State) (k : Nat) :
    (s.recordFault k).atExecutive = s.atExecutive := rfl

/-! ### capture -/

@[simp] theorem State.capture_cfg (s : State) (r : Option MemRef) : (s.capture r).cfg = s.cfg := rfl
@[simp] theorem State.capture_regs (s : State) (r : Option MemRef) : (s.capture r).regs = s.regs := rfl
@[simp] theorem State.capture_ic (s : State) (r : Option MemRef) : (s.capture r).ic = s.ic := rfl
@[simp] theorem State.capture_sw (s : State) (r : Option MemRef) : (s.capture r).sw = s.sw := rfl
@[simp] theorem State.capture_ft (s : State) (r : Option MemRef) : (s.capture r).ft = s.ft := rfl
@[simp] theorem State.capture_mkr (s : State) (r : Option MemRef) : (s.capture r).mkr = s.mkr := rfl
@[simp] theorem State.capture_pir (s : State) (r : Option MemRef) : (s.capture r).pir = s.pir := rfl
@[simp] theorem State.capture_inten (s : State) (r : Option MemRef) : (s.capture r).inten = s.inten := rfl
@[simp] theorem State.capture_endly (s : State) (r : Option MemRef) : (s.capture r).endly = s.endly := rfl
@[simp] theorem State.capture_pihold (s : State) (r : Option MemRef) : (s.capture r).pihold = s.pihold := rfl
@[simp] theorem State.capture_halted (s : State) (r : Option MemRef) : (s.capture r).halted = s.halted := rfl
@[simp] theorem State.capture_mem (s : State) (r : Option MemRef) : (s.capture r).mem = s.mem := rfl
@[simp] theorem State.capture_pri (s : State) (r : Option MemRef) : (s.capture r).pri = s.pri := rfl
@[simp] theorem State.capture_pro (s : State) (r : Option MemRef) : (s.capture r).pro = s.pro := rfl
@[simp] theorem State.capture_mfsr (s : State) (r : Option MemRef) :
    (s.capture r).mfsr = if s.cfg.hasMfsr then (r.map designators).getD s.mfsr else s.mfsr := rfl
@[simp] theorem State.capture_mpr (s : State) (r : Option MemRef) : (s.capture r).mpr = s.mpr := rfl
@[simp] theorem State.capture_mpen (s : State) (r : Option MemRef) : (s.capture r).mpen = s.mpen := rfl
@[simp] theorem State.capture_suen (s : State) (r : Option MemRef) : (s.capture r).suen = s.suen := rfl
@[simp] theorem State.capture_timers (s : State) (r : Option MemRef) : (s.capture r).timers = s.timers := rfl
@[simp] theorem State.capture_io (s : State) (r : Option MemRef) : (s.capture r).io = s.io := rfl
@[simp] theorem State.capture_console (s : State) (r : Option MemRef) : (s.capture r).console = s.console := rfl
@[simp] theorem State.capture_badParity (s : State) (r : Option MemRef) : (s.capture r).badParity = s.badParity := rfl
@[simp] theorem State.capture_env (s : State) (r : Option MemRef) : (s.capture r).env = s.env := rfl
@[simp] theorem State.capture_bus (s : State) (r : Option MemRef) : (s.capture r).bus = s.bus := rfl
@[simp] theorem State.capture_freeCount (s : State) (r : Option MemRef) : (s.capture r).freeCount = s.freeCount := rfl
@[simp] theorem State.capture_atExecutive (s : State) (r : Option MemRef) :
    (s.capture r).atExecutive = s.atExecutive := rfl

/-! ### raiseFault -/

@[simp] theorem State.raiseFault_cfg (s : State) (e : Abort) : (s.raiseFault e).cfg = s.cfg := rfl
@[simp] theorem State.raiseFault_regs (s : State) (e : Abort) : (s.raiseFault e).regs = s.regs := rfl
@[simp] theorem State.raiseFault_ic (s : State) (e : Abort) : (s.raiseFault e).ic = s.ic := rfl
@[simp] theorem State.raiseFault_sw (s : State) (e : Abort) : (s.raiseFault e).sw = s.sw := rfl
@[simp] theorem State.raiseFault_ft (s : State) (e : Abort) :
    (s.raiseFault e).ft = s.ft ||| (bitMask e.fault.bit &&& s.cfg.faultBits) := rfl
@[simp] theorem State.raiseFault_mkr (s : State) (e : Abort) : (s.raiseFault e).mkr = s.mkr := rfl
@[simp] theorem State.raiseFault_pir (s : State) (e : Abort) : (s.raiseFault e).pir = s.pir ||| bitMask 1 := rfl
@[simp] theorem State.raiseFault_inten (s : State) (e : Abort) : (s.raiseFault e).inten = s.inten := rfl
@[simp] theorem State.raiseFault_endly (s : State) (e : Abort) : (s.raiseFault e).endly = s.endly := rfl
@[simp] theorem State.raiseFault_pihold (s : State) (e : Abort) : (s.raiseFault e).pihold = s.pihold := rfl
@[simp] theorem State.raiseFault_halted (s : State) (e : Abort) : (s.raiseFault e).halted = s.halted := rfl
@[simp] theorem State.raiseFault_mem (s : State) (e : Abort) : (s.raiseFault e).mem = s.mem := rfl
@[simp] theorem State.raiseFault_pri (s : State) (e : Abort) : (s.raiseFault e).pri = s.pri := rfl
@[simp] theorem State.raiseFault_pro (s : State) (e : Abort) : (s.raiseFault e).pro = s.pro := rfl
@[simp] theorem State.raiseFault_mfsr (s : State) (e : Abort) :
    (s.raiseFault e).mfsr = if s.cfg.hasMfsr then (e.ref.map designators).getD s.mfsr else s.mfsr := rfl
@[simp] theorem State.raiseFault_mpr (s : State) (e : Abort) : (s.raiseFault e).mpr = s.mpr := rfl
@[simp] theorem State.raiseFault_mpen (s : State) (e : Abort) : (s.raiseFault e).mpen = s.mpen := rfl
@[simp] theorem State.raiseFault_suen (s : State) (e : Abort) : (s.raiseFault e).suen = s.suen := rfl
@[simp] theorem State.raiseFault_timers (s : State) (e : Abort) : (s.raiseFault e).timers = s.timers := rfl
@[simp] theorem State.raiseFault_io (s : State) (e : Abort) : (s.raiseFault e).io = s.io := rfl
@[simp] theorem State.raiseFault_console (s : State) (e : Abort) : (s.raiseFault e).console = s.console := rfl
@[simp] theorem State.raiseFault_badParity (s : State) (e : Abort) : (s.raiseFault e).badParity = s.badParity := rfl
@[simp] theorem State.raiseFault_env (s : State) (e : Abort) : (s.raiseFault e).env = s.env := rfl
@[simp] theorem State.raiseFault_bus (s : State) (e : Abort) : (s.raiseFault e).bus = s.bus := rfl
@[simp] theorem State.raiseFault_freeCount (s : State) (e : Abort) : (s.raiseFault e).freeCount = s.freeCount := rfl
@[simp] theorem State.raiseFault_atExecutive (s : State) (e : Abort) :
    (s.raiseFault e).atExecutive = s.atExecutive := rfl

/-! ### storePhysical -/

@[simp] theorem State.storePhysical_cfg (s : State) (pa : Nat) (w : Word) : (s.storePhysical pa w).cfg = s.cfg := rfl
@[simp] theorem State.storePhysical_regs (s : State) (pa : Nat) (w : Word) :
    (s.storePhysical pa w).regs = s.regs := rfl
@[simp] theorem State.storePhysical_ic (s : State) (pa : Nat) (w : Word) : (s.storePhysical pa w).ic = s.ic := rfl
@[simp] theorem State.storePhysical_sw (s : State) (pa : Nat) (w : Word) : (s.storePhysical pa w).sw = s.sw := rfl
@[simp] theorem State.storePhysical_ft (s : State) (pa : Nat) (w : Word) : (s.storePhysical pa w).ft = s.ft := rfl
@[simp] theorem State.storePhysical_mkr (s : State) (pa : Nat) (w : Word) : (s.storePhysical pa w).mkr = s.mkr := rfl
@[simp] theorem State.storePhysical_pir (s : State) (pa : Nat) (w : Word) : (s.storePhysical pa w).pir = s.pir := rfl
@[simp] theorem State.storePhysical_inten (s : State) (pa : Nat) (w : Word) :
    (s.storePhysical pa w).inten = s.inten := rfl
@[simp] theorem State.storePhysical_endly (s : State) (pa : Nat) (w : Word) :
    (s.storePhysical pa w).endly = s.endly := rfl
@[simp] theorem State.storePhysical_pihold (s : State) (pa : Nat) (w : Word) :
    (s.storePhysical pa w).pihold = s.pihold := rfl
@[simp] theorem State.storePhysical_halted (s : State) (pa : Nat) (w : Word) :
    (s.storePhysical pa w).halted = s.halted := rfl
@[simp] theorem State.storePhysical_mem (s : State) (pa : Nat) (w : Word) :
    (s.storePhysical pa w).mem = Memory.setWord s.mem pa w := rfl
@[simp] theorem State.storePhysical_pri (s : State) (pa : Nat) (w : Word) : (s.storePhysical pa w).pri = s.pri := rfl
@[simp] theorem State.storePhysical_pro (s : State) (pa : Nat) (w : Word) : (s.storePhysical pa w).pro = s.pro := rfl
@[simp] theorem State.storePhysical_mfsr (s : State) (pa : Nat) (w : Word) :
    (s.storePhysical pa w).mfsr = s.mfsr := rfl
@[simp] theorem State.storePhysical_mpr (s : State) (pa : Nat) (w : Word) : (s.storePhysical pa w).mpr = s.mpr := rfl
@[simp] theorem State.storePhysical_mpen (s : State) (pa : Nat) (w : Word) :
    (s.storePhysical pa w).mpen = s.mpen := rfl
@[simp] theorem State.storePhysical_suen (s : State) (pa : Nat) (w : Word) :
    (s.storePhysical pa w).suen = s.suen := rfl
@[simp] theorem State.storePhysical_timers (s : State) (pa : Nat) (w : Word) :
    (s.storePhysical pa w).timers = s.timers := rfl
@[simp] theorem State.storePhysical_io (s : State) (pa : Nat) (w : Word) : (s.storePhysical pa w).io = s.io := rfl
@[simp] theorem State.storePhysical_console (s : State) (pa : Nat) (w : Word) :
    (s.storePhysical pa w).console = s.console := rfl
@[simp] theorem State.storePhysical_badParity (s : State) (pa : Nat) (w : Word) :
    (s.storePhysical pa w).badParity = s.badParity.filter fun a => a != pa := rfl
@[simp] theorem State.storePhysical_env (s : State) (pa : Nat) (w : Word) : (s.storePhysical pa w).env = s.env := rfl
@[simp] theorem State.storePhysical_bus (s : State) (pa : Nat) (w : Word) : (s.storePhysical pa w).bus = s.bus := rfl
@[simp] theorem State.storePhysical_freeCount (s : State) (pa : Nat) (w : Word) :
    (s.storePhysical pa w).freeCount = s.freeCount := rfl
@[simp] theorem State.storePhysical_atExecutive (s : State) (pa : Nat) (w : Word) :
    (s.storePhysical pa w).atExecutive = s.atExecutive := rfl

/-! ### disable -/

@[simp] theorem State.disable_cfg (s : State) : (s.disable).cfg = s.cfg := rfl
@[simp] theorem State.disable_regs (s : State) : (s.disable).regs = s.regs := rfl
@[simp] theorem State.disable_ic (s : State) : (s.disable).ic = s.ic := rfl
@[simp] theorem State.disable_sw (s : State) : (s.disable).sw = s.sw := rfl
@[simp] theorem State.disable_ft (s : State) : (s.disable).ft = s.ft := rfl
@[simp] theorem State.disable_mkr (s : State) : (s.disable).mkr = s.mkr := rfl
@[simp] theorem State.disable_pir (s : State) : (s.disable).pir = s.pir := rfl
@[simp] theorem State.disable_inten (s : State) : (s.disable).inten = false := rfl
@[simp] theorem State.disable_endly (s : State) : (s.disable).endly = false := rfl
@[simp] theorem State.disable_pihold (s : State) : (s.disable).pihold = s.pihold := rfl
@[simp] theorem State.disable_halted (s : State) : (s.disable).halted = s.halted := rfl
@[simp] theorem State.disable_mem (s : State) : (s.disable).mem = s.mem := rfl
@[simp] theorem State.disable_pri (s : State) : (s.disable).pri = s.pri := rfl
@[simp] theorem State.disable_pro (s : State) : (s.disable).pro = s.pro := rfl
@[simp] theorem State.disable_mfsr (s : State) : (s.disable).mfsr = s.mfsr := rfl
@[simp] theorem State.disable_mpr (s : State) : (s.disable).mpr = s.mpr := rfl
@[simp] theorem State.disable_mpen (s : State) : (s.disable).mpen = s.mpen := rfl
@[simp] theorem State.disable_suen (s : State) : (s.disable).suen = s.suen := rfl
@[simp] theorem State.disable_timers (s : State) : (s.disable).timers = s.timers := rfl
@[simp] theorem State.disable_io (s : State) : (s.disable).io = s.io := rfl
@[simp] theorem State.disable_console (s : State) : (s.disable).console = s.console := rfl
@[simp] theorem State.disable_badParity (s : State) : (s.disable).badParity = s.badParity := rfl
@[simp] theorem State.disable_env (s : State) : (s.disable).env = s.env := rfl
@[simp] theorem State.disable_bus (s : State) : (s.disable).bus = s.bus := rfl
@[simp] theorem State.disable_freeCount (s : State) : (s.disable).freeCount = s.freeCount := rfl
@[simp] theorem State.disable_atExecutive (s : State) : (s.disable).atExecutive = s.atExecutive := rfl

/-! ### openReg -/

@[simp] theorem State.openReg_cfg (s : State) (r : Reg) : (s.openReg r).cfg = s.cfg := rfl
@[simp] theorem State.openReg_regs (s : State) (r : Reg) :
    (s.openReg r).regs = s.regs.set r.toNat (freeWord s.freeCount) := rfl
@[simp] theorem State.openReg_ic (s : State) (r : Reg) : (s.openReg r).ic = s.ic := rfl
@[simp] theorem State.openReg_sw (s : State) (r : Reg) : (s.openReg r).sw = s.sw := rfl
@[simp] theorem State.openReg_ft (s : State) (r : Reg) : (s.openReg r).ft = s.ft := rfl
@[simp] theorem State.openReg_mkr (s : State) (r : Reg) : (s.openReg r).mkr = s.mkr := rfl
@[simp] theorem State.openReg_pir (s : State) (r : Reg) : (s.openReg r).pir = s.pir := rfl
@[simp] theorem State.openReg_inten (s : State) (r : Reg) : (s.openReg r).inten = s.inten := rfl
@[simp] theorem State.openReg_endly (s : State) (r : Reg) : (s.openReg r).endly = s.endly := rfl
@[simp] theorem State.openReg_pihold (s : State) (r : Reg) : (s.openReg r).pihold = s.pihold := rfl
@[simp] theorem State.openReg_halted (s : State) (r : Reg) : (s.openReg r).halted = s.halted := rfl
@[simp] theorem State.openReg_mem (s : State) (r : Reg) : (s.openReg r).mem = s.mem := rfl
@[simp] theorem State.openReg_pri (s : State) (r : Reg) : (s.openReg r).pri = s.pri := rfl
@[simp] theorem State.openReg_pro (s : State) (r : Reg) : (s.openReg r).pro = s.pro := rfl
@[simp] theorem State.openReg_mfsr (s : State) (r : Reg) : (s.openReg r).mfsr = s.mfsr := rfl
@[simp] theorem State.openReg_mpr (s : State) (r : Reg) : (s.openReg r).mpr = s.mpr := rfl
@[simp] theorem State.openReg_mpen (s : State) (r : Reg) : (s.openReg r).mpen = s.mpen := rfl
@[simp] theorem State.openReg_suen (s : State) (r : Reg) : (s.openReg r).suen = s.suen := rfl
@[simp] theorem State.openReg_timers (s : State) (r : Reg) : (s.openReg r).timers = s.timers := rfl
@[simp] theorem State.openReg_io (s : State) (r : Reg) : (s.openReg r).io = s.io := rfl
@[simp] theorem State.openReg_console (s : State) (r : Reg) : (s.openReg r).console = s.console := rfl
@[simp] theorem State.openReg_badParity (s : State) (r : Reg) : (s.openReg r).badParity = s.badParity := rfl
@[simp] theorem State.openReg_env (s : State) (r : Reg) : (s.openReg r).env = s.env := rfl
@[simp] theorem State.openReg_bus (s : State) (r : Reg) : (s.openReg r).bus = s.bus := rfl
@[simp] theorem State.openReg_freeCount (s : State) (r : Reg) : (s.openReg r).freeCount = s.freeCount + 1 := rfl
@[simp] theorem State.openReg_atExecutive (s : State) (r : Reg) : (s.openReg r).atExecutive = s.atExecutive := rfl

/-! ### openStatus -/

@[simp] theorem State.openStatus_cfg (s : State) : (s.openStatus).cfg = s.cfg := rfl
@[simp] theorem State.openStatus_regs (s : State) : (s.openStatus).regs = s.regs := rfl
@[simp] theorem State.openStatus_ic (s : State) : (s.openStatus).ic = s.ic := rfl
@[simp] theorem State.openStatus_sw (s : State) :
    (s.openStatus).sw = (freeWord s.freeCount).extractLsb' 0 4 ++ s.sw.extractLsb' 0 12 := rfl
@[simp] theorem State.openStatus_ft (s : State) : (s.openStatus).ft = s.ft := rfl
@[simp] theorem State.openStatus_mkr (s : State) : (s.openStatus).mkr = s.mkr := rfl
@[simp] theorem State.openStatus_pir (s : State) :
    (s.openStatus).pir = s.pir ||| (freeWord (s.freeCount + 1) &&& openRequests) := rfl
@[simp] theorem State.openStatus_inten (s : State) : (s.openStatus).inten = s.inten := rfl
@[simp] theorem State.openStatus_endly (s : State) : (s.openStatus).endly = s.endly := rfl
@[simp] theorem State.openStatus_pihold (s : State) : (s.openStatus).pihold = s.pihold := rfl
@[simp] theorem State.openStatus_halted (s : State) : (s.openStatus).halted = s.halted := rfl
@[simp] theorem State.openStatus_mem (s : State) : (s.openStatus).mem = s.mem := rfl
@[simp] theorem State.openStatus_pri (s : State) : (s.openStatus).pri = s.pri := rfl
@[simp] theorem State.openStatus_pro (s : State) : (s.openStatus).pro = s.pro := rfl
@[simp] theorem State.openStatus_mfsr (s : State) : (s.openStatus).mfsr = s.mfsr := rfl
@[simp] theorem State.openStatus_mpr (s : State) : (s.openStatus).mpr = s.mpr := rfl
@[simp] theorem State.openStatus_mpen (s : State) : (s.openStatus).mpen = s.mpen := rfl
@[simp] theorem State.openStatus_suen (s : State) : (s.openStatus).suen = s.suen := rfl
@[simp] theorem State.openStatus_timers (s : State) : (s.openStatus).timers = s.timers := rfl
@[simp] theorem State.openStatus_io (s : State) : (s.openStatus).io = s.io := rfl
@[simp] theorem State.openStatus_console (s : State) : (s.openStatus).console = s.console := rfl
@[simp] theorem State.openStatus_badParity (s : State) : (s.openStatus).badParity = s.badParity := rfl
@[simp] theorem State.openStatus_env (s : State) : (s.openStatus).env = s.env := rfl
@[simp] theorem State.openStatus_bus (s : State) : (s.openStatus).bus = s.bus := rfl
@[simp] theorem State.openStatus_freeCount (s : State) : (s.openStatus).freeCount = s.freeCount + 2 := rfl
@[simp] theorem State.openStatus_atExecutive (s : State) : (s.openStatus).atExecutive = s.atExecutive := rfl

/-! ### loadSw -/

@[simp] theorem State.loadSw_cfg (s : State) (w : Word) : (s.loadSw w).cfg = s.cfg := by
  unfold State.loadSw; split <;> rfl
@[simp] theorem State.loadSw_regs (s : State) (w : Word) : (s.loadSw w).regs = s.regs := by
  unfold State.loadSw; split <;> rfl
@[simp] theorem State.loadSw_ic (s : State) (w : Word) : (s.loadSw w).ic = s.ic := by
  unfold State.loadSw; split <;> rfl
@[simp] theorem State.loadSw_mkr (s : State) (w : Word) : (s.loadSw w).mkr = s.mkr := by
  unfold State.loadSw; split <;> rfl
@[simp] theorem State.loadSw_inten (s : State) (w : Word) : (s.loadSw w).inten = s.inten := by
  unfold State.loadSw; split <;> rfl
@[simp] theorem State.loadSw_endly (s : State) (w : Word) : (s.loadSw w).endly = s.endly := by
  unfold State.loadSw; split <;> rfl
@[simp] theorem State.loadSw_pihold (s : State) (w : Word) : (s.loadSw w).pihold = s.pihold := by
  unfold State.loadSw; split <;> rfl
@[simp] theorem State.loadSw_halted (s : State) (w : Word) : (s.loadSw w).halted = s.halted := by
  unfold State.loadSw; split <;> rfl
@[simp] theorem State.loadSw_mem (s : State) (w : Word) : (s.loadSw w).mem = s.mem := by
  unfold State.loadSw; split <;> rfl
@[simp] theorem State.loadSw_pri (s : State) (w : Word) : (s.loadSw w).pri = s.pri := by
  unfold State.loadSw; split <;> rfl
@[simp] theorem State.loadSw_pro (s : State) (w : Word) : (s.loadSw w).pro = s.pro := by
  unfold State.loadSw; split <;> rfl
@[simp] theorem State.loadSw_mfsr (s : State) (w : Word) : (s.loadSw w).mfsr = s.mfsr := by
  unfold State.loadSw; split <;> rfl
@[simp] theorem State.loadSw_mpr (s : State) (w : Word) : (s.loadSw w).mpr = s.mpr := by
  unfold State.loadSw; split <;> rfl
@[simp] theorem State.loadSw_mpen (s : State) (w : Word) : (s.loadSw w).mpen = s.mpen := by
  unfold State.loadSw; split <;> rfl
@[simp] theorem State.loadSw_suen (s : State) (w : Word) : (s.loadSw w).suen = s.suen := by
  unfold State.loadSw; split <;> rfl
@[simp] theorem State.loadSw_timers (s : State) (w : Word) : (s.loadSw w).timers = s.timers := by
  unfold State.loadSw; split <;> rfl
@[simp] theorem State.loadSw_io (s : State) (w : Word) : (s.loadSw w).io = s.io := by
  unfold State.loadSw; split <;> rfl
@[simp] theorem State.loadSw_console (s : State) (w : Word) : (s.loadSw w).console = s.console := by
  unfold State.loadSw; split <;> rfl
@[simp] theorem State.loadSw_badParity (s : State) (w : Word) : (s.loadSw w).badParity = s.badParity := by
  unfold State.loadSw; split <;> rfl
@[simp] theorem State.loadSw_env (s : State) (w : Word) : (s.loadSw w).env = s.env := by
  unfold State.loadSw; split <;> rfl
@[simp] theorem State.loadSw_bus (s : State) (w : Word) : (s.loadSw w).bus = s.bus := by
  unfold State.loadSw; split <;> rfl
@[simp] theorem State.loadSw_freeCount (s : State) (w : Word) : (s.loadSw w).freeCount = s.freeCount := by
  unfold State.loadSw; split <;> rfl
@[simp] theorem State.loadSw_atExecutive (s : State) (w : Word) : (s.loadSw w).atExecutive = s.atExecutive := by
  unfold State.loadSw; split <;> rfl

/-! ### endStep -/

@[simp] theorem State.endStep_inten (s t : State) : (s.endStep t).inten = (t.inten || (s.endly && t.endly)) := rfl
@[simp] theorem State.endStep_endly (s t : State) : (s.endStep t).endly = (t.endly && !s.endly) := rfl
@[simp] theorem State.endStep_pihold (s t : State) : (s.endStep t).pihold = t.pihold &&& ~~~s.pihold := rfl
@[simp] theorem State.endStep_cfg (s t : State) : (s.endStep t).cfg = t.cfg := rfl
@[simp] theorem State.endStep_regs (s t : State) : (s.endStep t).regs = t.regs := rfl
@[simp] theorem State.endStep_ic (s t : State) : (s.endStep t).ic = t.ic := rfl
@[simp] theorem State.endStep_sw (s t : State) : (s.endStep t).sw = t.sw := rfl
@[simp] theorem State.endStep_ft (s t : State) : (s.endStep t).ft = t.ft := rfl
@[simp] theorem State.endStep_mkr (s t : State) : (s.endStep t).mkr = t.mkr := rfl
@[simp] theorem State.endStep_pir (s t : State) : (s.endStep t).pir = t.pir := rfl
@[simp] theorem State.endStep_halted (s t : State) : (s.endStep t).halted = t.halted := rfl
@[simp] theorem State.endStep_mem (s t : State) : (s.endStep t).mem = t.mem := rfl
@[simp] theorem State.endStep_pri (s t : State) : (s.endStep t).pri = t.pri := rfl
@[simp] theorem State.endStep_pro (s t : State) : (s.endStep t).pro = t.pro := rfl
@[simp] theorem State.endStep_mfsr (s t : State) : (s.endStep t).mfsr = t.mfsr := rfl
@[simp] theorem State.endStep_mpr (s t : State) : (s.endStep t).mpr = t.mpr := rfl
@[simp] theorem State.endStep_mpen (s t : State) : (s.endStep t).mpen = t.mpen := rfl
@[simp] theorem State.endStep_suen (s t : State) : (s.endStep t).suen = t.suen := rfl
@[simp] theorem State.endStep_timers (s t : State) : (s.endStep t).timers = t.timers := rfl
@[simp] theorem State.endStep_io (s t : State) : (s.endStep t).io = t.io := rfl
@[simp] theorem State.endStep_console (s t : State) : (s.endStep t).console = t.console := rfl
@[simp] theorem State.endStep_badParity (s t : State) : (s.endStep t).badParity = t.badParity := rfl
@[simp] theorem State.endStep_env (s t : State) : (s.endStep t).env = t.env := rfl
@[simp] theorem State.endStep_bus (s t : State) : (s.endStep t).bus = t.bus := rfl
@[simp] theorem State.endStep_freeCount (s t : State) : (s.endStep t).freeCount = t.freeCount := rfl
@[simp] theorem State.endStep_atExecutive (s t : State) : (s.endStep t).atExecutive = t.atExecutive := rfl

/-! ### holdBoundary -/

@[simp] theorem State.holdBoundary_cfg (s : State) : s.holdBoundary.cfg = s.cfg := rfl
@[simp] theorem State.holdBoundary_regs (s : State) : s.holdBoundary.regs = s.regs := rfl
@[simp] theorem State.holdBoundary_ic (s : State) : s.holdBoundary.ic = s.ic := rfl
@[simp] theorem State.holdBoundary_sw (s : State) : s.holdBoundary.sw = s.sw := rfl
@[simp] theorem State.holdBoundary_ft (s : State) : s.holdBoundary.ft = s.ft := rfl
@[simp] theorem State.holdBoundary_mkr (s : State) : s.holdBoundary.mkr = s.mkr := rfl
@[simp] theorem State.holdBoundary_pir (s : State) : s.holdBoundary.pir = s.pir := rfl
@[simp] theorem State.holdBoundary_inten (s : State) : s.holdBoundary.inten = s.inten := rfl
@[simp] theorem State.holdBoundary_endly (s : State) : s.holdBoundary.endly = s.endly := rfl
@[simp] theorem State.holdBoundary_pihold (s : State) : s.holdBoundary.pihold = s.pihold := rfl
@[simp] theorem State.holdBoundary_halted (s : State) : s.holdBoundary.halted = s.halted := rfl
@[simp] theorem State.holdBoundary_mem (s : State) : s.holdBoundary.mem = s.mem := rfl
@[simp] theorem State.holdBoundary_pri (s : State) : s.holdBoundary.pri = s.pri := rfl
@[simp] theorem State.holdBoundary_pro (s : State) : s.holdBoundary.pro = s.pro := rfl
@[simp] theorem State.holdBoundary_mfsr (s : State) : s.holdBoundary.mfsr = s.mfsr := rfl
@[simp] theorem State.holdBoundary_mpr (s : State) : s.holdBoundary.mpr = s.mpr := rfl
@[simp] theorem State.holdBoundary_mpen (s : State) : s.holdBoundary.mpen = s.mpen := rfl
@[simp] theorem State.holdBoundary_suen (s : State) : s.holdBoundary.suen = s.suen := rfl
@[simp] theorem State.holdBoundary_timers (s : State) : s.holdBoundary.timers = s.timers := rfl
@[simp] theorem State.holdBoundary_io (s : State) : s.holdBoundary.io = s.io := rfl
@[simp] theorem State.holdBoundary_console (s : State) : s.holdBoundary.console = s.console := rfl
@[simp] theorem State.holdBoundary_atExecutive (s : State) : s.holdBoundary.atExecutive = true := rfl
@[simp] theorem State.holdBoundary_badParity (s : State) : s.holdBoundary.badParity = s.badParity := rfl
@[simp] theorem State.holdBoundary_env (s : State) : s.holdBoundary.env = s.env := rfl
@[simp] theorem State.holdBoundary_bus (s : State) : s.holdBoundary.bus = s.bus := rfl
@[simp] theorem State.holdBoundary_freeCount (s : State) : s.holdBoundary.freeCount = s.freeCount := rfl

/-! ### beginInstruction -/

@[simp] theorem State.beginInstruction_cfg (s : State) : s.beginInstruction.cfg = s.cfg := rfl
@[simp] theorem State.beginInstruction_regs (s : State) : s.beginInstruction.regs = s.regs := rfl
@[simp] theorem State.beginInstruction_ic (s : State) : s.beginInstruction.ic = s.ic := rfl
@[simp] theorem State.beginInstruction_sw (s : State) : s.beginInstruction.sw = s.sw := rfl
@[simp] theorem State.beginInstruction_ft (s : State) : s.beginInstruction.ft = s.ft := rfl
@[simp] theorem State.beginInstruction_mkr (s : State) : s.beginInstruction.mkr = s.mkr := rfl
@[simp] theorem State.beginInstruction_pir (s : State) : s.beginInstruction.pir = s.pir := rfl
@[simp] theorem State.beginInstruction_inten (s : State) : s.beginInstruction.inten = s.inten := rfl
@[simp] theorem State.beginInstruction_endly (s : State) : s.beginInstruction.endly = s.endly := rfl
@[simp] theorem State.beginInstruction_pihold (s : State) : s.beginInstruction.pihold = s.pihold := rfl
@[simp] theorem State.beginInstruction_halted (s : State) : s.beginInstruction.halted = s.halted := rfl
@[simp] theorem State.beginInstruction_mem (s : State) : s.beginInstruction.mem = s.mem := rfl
@[simp] theorem State.beginInstruction_pri (s : State) : s.beginInstruction.pri = s.pri := rfl
@[simp] theorem State.beginInstruction_pro (s : State) : s.beginInstruction.pro = s.pro := rfl
@[simp] theorem State.beginInstruction_mfsr (s : State) : s.beginInstruction.mfsr = s.mfsr := rfl
@[simp] theorem State.beginInstruction_mpr (s : State) : s.beginInstruction.mpr = s.mpr := rfl
@[simp] theorem State.beginInstruction_mpen (s : State) : s.beginInstruction.mpen = s.mpen := rfl
@[simp] theorem State.beginInstruction_suen (s : State) : s.beginInstruction.suen = s.suen := rfl
@[simp] theorem State.beginInstruction_timers (s : State) : s.beginInstruction.timers = s.timers := rfl
@[simp] theorem State.beginInstruction_io (s : State) : s.beginInstruction.io = s.io := rfl
@[simp] theorem State.beginInstruction_console (s : State) : s.beginInstruction.console = s.console := rfl
@[simp] theorem State.beginInstruction_atExecutive (s : State) : s.beginInstruction.atExecutive = false := rfl
@[simp] theorem State.beginInstruction_badParity (s : State) : s.beginInstruction.badParity = s.badParity := rfl
@[simp] theorem State.beginInstruction_env (s : State) : s.beginInstruction.env = s.env := rfl
@[simp] theorem State.beginInstruction_bus (s : State) : s.beginInstruction.bus = s.bus := rfl
@[simp] theorem State.beginInstruction_freeCount (s : State) : s.beginInstruction.freeCount = s.freeCount := rfl

/-! ### What reads one field only -/

@[simp] theorem State.cs_setReg (s : State) (r : Reg) (v : Word) : (s.setReg r v).cs = s.cs := rfl
@[simp] theorem State.ps_setReg (s : State) (r : Reg) (v : Word) : (s.setReg r v).ps = s.ps := rfl
@[simp] theorem State.as_setReg (s : State) (r : Reg) (v : Word) : (s.setReg r v).as = s.as := rfl
@[simp] theorem State.cs_setPair (s : State) (r : Reg) (v : Double) : (s.setPair r v).cs = s.cs := rfl
@[simp] theorem State.ps_setPair (s : State) (r : Reg) (v : Double) : (s.setPair r v).ps = s.ps := rfl
@[simp] theorem State.as_setPair (s : State) (r : Reg) (v : Double) : (s.setPair r v).as = s.as := rfl
@[simp] theorem State.cs_setTriple (s : State) (r : Reg) (v : Triple) : (s.setTriple r v).cs = s.cs := rfl
@[simp] theorem State.ps_setTriple (s : State) (r : Reg) (v : Triple) : (s.setTriple r v).ps = s.ps := rfl
@[simp] theorem State.as_setTriple (s : State) (r : Reg) (v : Triple) : (s.setTriple r v).as = s.as := rfl
@[simp] theorem State.reg_setCs (s : State) (c : Nibble) (q : Reg) : (s.setCs c).reg q = s.reg q := rfl
@[simp] theorem State.pair_setCs (s : State) (c : Nibble) (q : Reg) : (s.setCs c).pair q = s.pair q := rfl
@[simp] theorem State.triple_setCs (s : State) (c : Nibble) (q : Reg) : (s.setCs c).triple q = s.triple q := rfl
@[simp] theorem State.index_setCs (s : State) (c : Nibble) (q : Reg) : (s.setCs c).index q = s.index q := rfl
@[simp] theorem State.direct_setCs (s : State) (c : Nibble) (a : Word) (q : Reg) :
    (s.setCs c).direct a q = s.direct a q := rfl
@[simp] theorem State.based_setCs (s : State) (c : Nibble) (q : Reg) (du : Byte) :
    (s.setCs c).based q du = s.based q du := rfl
@[simp] theorem State.baseIndexed_setCs (s : State) (c : Nibble) (q x : Reg) :
    (s.setCs c).baseIndexed q x = s.baseIndexed q x := rfl
@[simp] theorem State.reg_advance (s : State) (n : Word) (q : Reg) : (s.advance n).reg q = s.reg q := rfl
@[simp] theorem State.pair_advance (s : State) (n : Word) (q : Reg) : (s.advance n).pair q = s.pair q := rfl
@[simp] theorem State.triple_advance (s : State) (n : Word) (q : Reg) : (s.advance n).triple q = s.triple q := rfl
@[simp] theorem State.cs_advance (s : State) (n : Word) : (s.advance n).cs = s.cs := rfl
@[simp] theorem State.ps_advance (s : State) (n : Word) : (s.advance n).ps = s.ps := rfl
@[simp] theorem State.as_advance (s : State) (n : Word) : (s.advance n).as = s.as := rfl
@[simp] theorem State.index_advance (s : State) (n : Word) (q : Reg) : (s.advance n).index q = s.index q := rfl
@[simp] theorem State.direct_advance (s : State) (n : Word) (a : Word) (q : Reg) :
    (s.advance n).direct a q = s.direct a q := rfl
@[simp] theorem State.based_advance (s : State) (n : Word) (q : Reg) (du : Byte) :
    (s.advance n).based q du = s.based q du := rfl
@[simp] theorem State.baseIndexed_advance (s : State) (n : Word) (q x : Reg) :
    (s.advance n).baseIndexed q x = s.baseIndexed q x := rfl
@[simp] theorem State.reg_jumpTo (s : State) (t : Word) (q : Reg) : (s.jumpTo t).reg q = s.reg q := rfl
@[simp] theorem State.pair_jumpTo (s : State) (t : Word) (q : Reg) : (s.jumpTo t).pair q = s.pair q := rfl
@[simp] theorem State.triple_jumpTo (s : State) (t : Word) (q : Reg) : (s.jumpTo t).triple q = s.triple q := rfl
@[simp] theorem State.cs_jumpTo (s : State) (t : Word) : (s.jumpTo t).cs = s.cs := rfl
@[simp] theorem State.ps_jumpTo (s : State) (t : Word) : (s.jumpTo t).ps = s.ps := rfl
@[simp] theorem State.as_jumpTo (s : State) (t : Word) : (s.jumpTo t).as = s.as := rfl
@[simp] theorem State.index_jumpTo (s : State) (t : Word) (q : Reg) : (s.jumpTo t).index q = s.index q := rfl
@[simp] theorem State.direct_jumpTo (s : State) (t : Word) (a : Word) (q : Reg) :
    (s.jumpTo t).direct a q = s.direct a q := rfl
@[simp] theorem State.based_jumpTo (s : State) (t : Word) (q : Reg) (du : Byte) :
    (s.jumpTo t).based q du = s.based q du := rfl
@[simp] theorem State.baseIndexed_jumpTo (s : State) (t : Word) (q x : Reg) :
    (s.jumpTo t).baseIndexed q x = s.baseIndexed q x := rfl
@[simp] theorem State.reg_requestIf (s : State) (b : Bool) (n : Nat) (q : Reg) :
    (s.requestIf b n).reg q = s.reg q := rfl
@[simp] theorem State.pair_requestIf (s : State) (b : Bool) (n : Nat) (q : Reg) :
    (s.requestIf b n).pair q = s.pair q := rfl
@[simp] theorem State.triple_requestIf (s : State) (b : Bool) (n : Nat) (q : Reg) :
    (s.requestIf b n).triple q = s.triple q := rfl
@[simp] theorem State.cs_requestIf (s : State) (b : Bool) (n : Nat) : (s.requestIf b n).cs = s.cs := rfl
@[simp] theorem State.ps_requestIf (s : State) (b : Bool) (n : Nat) : (s.requestIf b n).ps = s.ps := rfl
@[simp] theorem State.as_requestIf (s : State) (b : Bool) (n : Nat) : (s.requestIf b n).as = s.as := rfl
@[simp] theorem State.index_requestIf (s : State) (b : Bool) (n : Nat) (q : Reg) :
    (s.requestIf b n).index q = s.index q := rfl
@[simp] theorem State.direct_requestIf (s : State) (b : Bool) (n : Nat) (a : Word) (q : Reg) :
    (s.requestIf b n).direct a q = s.direct a q := rfl
@[simp] theorem State.based_requestIf (s : State) (b : Bool) (n : Nat) (q : Reg) (du : Byte) :
    (s.requestIf b n).based q du = s.based q du := rfl
@[simp] theorem State.baseIndexed_requestIf (s : State) (b : Bool) (n : Nat) (q x : Reg) :
    (s.requestIf b n).baseIndexed q x = s.baseIndexed q x := rfl
@[simp] theorem State.reg_recordFault (s : State) (k : Nat) (q : Reg) : (s.recordFault k).reg q = s.reg q := rfl
@[simp] theorem State.pair_recordFault (s : State) (k : Nat) (q : Reg) : (s.recordFault k).pair q = s.pair q := rfl
@[simp] theorem State.triple_recordFault (s : State) (k : Nat) (q : Reg) :
    (s.recordFault k).triple q = s.triple q := rfl
@[simp] theorem State.cs_recordFault (s : State) (k : Nat) : (s.recordFault k).cs = s.cs := rfl
@[simp] theorem State.ps_recordFault (s : State) (k : Nat) : (s.recordFault k).ps = s.ps := rfl
@[simp] theorem State.as_recordFault (s : State) (k : Nat) : (s.recordFault k).as = s.as := rfl
@[simp] theorem State.index_recordFault (s : State) (k : Nat) (q : Reg) : (s.recordFault k).index q = s.index q := rfl
@[simp] theorem State.direct_recordFault (s : State) (k : Nat) (a : Word) (q : Reg) :
    (s.recordFault k).direct a q = s.direct a q := rfl
@[simp] theorem State.based_recordFault (s : State) (k : Nat) (q : Reg) (du : Byte) :
    (s.recordFault k).based q du = s.based q du := rfl
@[simp] theorem State.baseIndexed_recordFault (s : State) (k : Nat) (q x : Reg) :
    (s.recordFault k).baseIndexed q x = s.baseIndexed q x := rfl
@[simp] theorem State.reg_capture (s : State) (r : Option MemRef) (q : Reg) : (s.capture r).reg q = s.reg q := rfl
@[simp] theorem State.pair_capture (s : State) (r : Option MemRef) (q : Reg) : (s.capture r).pair q = s.pair q := rfl
@[simp] theorem State.triple_capture (s : State) (r : Option MemRef) (q : Reg) :
    (s.capture r).triple q = s.triple q := rfl
@[simp] theorem State.cs_capture (s : State) (r : Option MemRef) : (s.capture r).cs = s.cs := rfl
@[simp] theorem State.ps_capture (s : State) (r : Option MemRef) : (s.capture r).ps = s.ps := rfl
@[simp] theorem State.as_capture (s : State) (r : Option MemRef) : (s.capture r).as = s.as := rfl
@[simp] theorem State.index_capture (s : State) (r : Option MemRef) (q : Reg) :
    (s.capture r).index q = s.index q := rfl
@[simp] theorem State.direct_capture (s : State) (r : Option MemRef) (a : Word) (q : Reg) :
    (s.capture r).direct a q = s.direct a q := rfl
@[simp] theorem State.based_capture (s : State) (r : Option MemRef) (q : Reg) (du : Byte) :
    (s.capture r).based q du = s.based q du := rfl
@[simp] theorem State.baseIndexed_capture (s : State) (r : Option MemRef) (q x : Reg) :
    (s.capture r).baseIndexed q x = s.baseIndexed q x := rfl
@[simp] theorem State.reg_raiseFault (s : State) (e : Abort) (q : Reg) : (s.raiseFault e).reg q = s.reg q := rfl
@[simp] theorem State.pair_raiseFault (s : State) (e : Abort) (q : Reg) : (s.raiseFault e).pair q = s.pair q := rfl
@[simp] theorem State.triple_raiseFault (s : State) (e : Abort) (q : Reg) :
    (s.raiseFault e).triple q = s.triple q := rfl
@[simp] theorem State.cs_raiseFault (s : State) (e : Abort) : (s.raiseFault e).cs = s.cs := rfl
@[simp] theorem State.ps_raiseFault (s : State) (e : Abort) : (s.raiseFault e).ps = s.ps := rfl
@[simp] theorem State.as_raiseFault (s : State) (e : Abort) : (s.raiseFault e).as = s.as := rfl
@[simp] theorem State.index_raiseFault (s : State) (e : Abort) (q : Reg) : (s.raiseFault e).index q = s.index q := rfl
@[simp] theorem State.direct_raiseFault (s : State) (e : Abort) (a : Word) (q : Reg) :
    (s.raiseFault e).direct a q = s.direct a q := rfl
@[simp] theorem State.based_raiseFault (s : State) (e : Abort) (q : Reg) (du : Byte) :
    (s.raiseFault e).based q du = s.based q du := rfl
@[simp] theorem State.baseIndexed_raiseFault (s : State) (e : Abort) (q x : Reg) :
    (s.raiseFault e).baseIndexed q x = s.baseIndexed q x := rfl
@[simp] theorem State.reg_storePhysical (s : State) (pa : Nat) (w : Word) (q : Reg) :
    (s.storePhysical pa w).reg q = s.reg q := rfl
@[simp] theorem State.pair_storePhysical (s : State) (pa : Nat) (w : Word) (q : Reg) :
    (s.storePhysical pa w).pair q = s.pair q := rfl
@[simp] theorem State.triple_storePhysical (s : State) (pa : Nat) (w : Word) (q : Reg) :
    (s.storePhysical pa w).triple q = s.triple q := rfl
@[simp] theorem State.cs_storePhysical (s : State) (pa : Nat) (w : Word) : (s.storePhysical pa w).cs = s.cs := rfl
@[simp] theorem State.ps_storePhysical (s : State) (pa : Nat) (w : Word) : (s.storePhysical pa w).ps = s.ps := rfl
@[simp] theorem State.as_storePhysical (s : State) (pa : Nat) (w : Word) : (s.storePhysical pa w).as = s.as := rfl
@[simp] theorem State.index_storePhysical (s : State) (pa : Nat) (w : Word) (q : Reg) :
    (s.storePhysical pa w).index q = s.index q := rfl
@[simp] theorem State.direct_storePhysical (s : State) (pa : Nat) (w : Word) (a : Word) (q : Reg) :
    (s.storePhysical pa w).direct a q = s.direct a q := rfl
@[simp] theorem State.based_storePhysical (s : State) (pa : Nat) (w : Word) (q : Reg) (du : Byte) :
    (s.storePhysical pa w).based q du = s.based q du := rfl
@[simp] theorem State.baseIndexed_storePhysical (s : State) (pa : Nat) (w : Word) (q x : Reg) :
    (s.storePhysical pa w).baseIndexed q x = s.baseIndexed q x := rfl
@[simp] theorem State.reg_disable (s : State) (q : Reg) : (s.disable).reg q = s.reg q := rfl
@[simp] theorem State.pair_disable (s : State) (q : Reg) : (s.disable).pair q = s.pair q := rfl
@[simp] theorem State.triple_disable (s : State) (q : Reg) : (s.disable).triple q = s.triple q := rfl
@[simp] theorem State.cs_disable (s : State) : (s.disable).cs = s.cs := rfl
@[simp] theorem State.ps_disable (s : State) : (s.disable).ps = s.ps := rfl
@[simp] theorem State.as_disable (s : State) : (s.disable).as = s.as := rfl
@[simp] theorem State.index_disable (s : State) (q : Reg) : (s.disable).index q = s.index q := rfl
@[simp] theorem State.direct_disable (s : State) (a : Word) (q : Reg) : (s.disable).direct a q = s.direct a q := rfl
@[simp] theorem State.based_disable (s : State) (q : Reg) (du : Byte) : (s.disable).based q du = s.based q du := rfl
@[simp] theorem State.baseIndexed_disable (s : State) (q x : Reg) :
    (s.disable).baseIndexed q x = s.baseIndexed q x := rfl
@[simp] theorem State.cs_openReg (s : State) (r : Reg) : (s.openReg r).cs = s.cs := rfl
@[simp] theorem State.ps_openReg (s : State) (r : Reg) : (s.openReg r).ps = s.ps := rfl
@[simp] theorem State.as_openReg (s : State) (r : Reg) : (s.openReg r).as = s.as := rfl
@[simp] theorem State.reg_openStatus (s : State) (q : Reg) : (s.openStatus).reg q = s.reg q := rfl
@[simp] theorem State.pair_openStatus (s : State) (q : Reg) : (s.openStatus).pair q = s.pair q := rfl
@[simp] theorem State.triple_openStatus (s : State) (q : Reg) : (s.openStatus).triple q = s.triple q := rfl
@[simp] theorem State.index_openStatus (s : State) (q : Reg) : (s.openStatus).index q = s.index q := rfl
@[simp] theorem State.direct_openStatus (s : State) (a : Word) (q : Reg) :
    (s.openStatus).direct a q = s.direct a q := rfl
@[simp] theorem State.based_openStatus (s : State) (q : Reg) (du : Byte) :
    (s.openStatus).based q du = s.based q du := rfl
@[simp] theorem State.baseIndexed_openStatus (s : State) (q x : Reg) :
    (s.openStatus).baseIndexed q x = s.baseIndexed q x := rfl

/-! ### References do not depend on IC -/

@[simp] theorem State.operandRef_advance (s : State) (n : Word) (a : Word) :
    (s.advance n).operandRef a = s.operandRef a := rfl
@[simp] theorem State.physical_advance (s : State) (n : Word) (r : MemRef) :
    (s.advance n).physical r = s.physical r := rfl
@[simp] theorem State.readFault_advance (s : State) (n : Word) (r : MemRef) (k : Nibble) :
    (s.advance n).readFault r k = s.readFault r k := rfl
@[simp] theorem State.writeFault_advance (s : State) (n : Word) (r : MemRef) (k : Nibble) :
    (s.advance n).writeFault r k = s.writeFault r k := rfl
@[simp] theorem State.readPhysical_advance (s : State) (n : Word) (pa : Nat) :
    (s.advance n).readPhysical pa = s.readPhysical pa := rfl
@[simp] theorem State.readWord_advance (s : State) (n : Word) (r : MemRef) (k : Nibble) :
    (s.advance n).readWord r k = s.readWord r k := rfl

/-! ### Direct memory access -/

/-- A DMA write changes memory, the parity marks, the fault register and the pending interrupts only. -/
theorem State.dmaWrite_eq (s : State) (pa : Nat) (w : Word) :
    s.dmaWrite pa w = { s with mem := (s.dmaWrite pa w).mem, badParity := (s.dmaWrite pa w).badParity,
                               ft := (s.dmaWrite pa w).ft, pir := (s.dmaWrite pa w).pir } := by
  unfold State.dmaWrite; split_ifs <;> rfl

/-- A DMA read changes the fault register and the pending interrupts only. -/
theorem State.dmaRead_eq (s : State) (pa : Nat) :
    s.dmaRead pa = { s with ft := (s.dmaRead pa).ft, pir := (s.dmaRead pa).pir } := by
  unfold State.dmaRead; split_ifs <;> rfl

/-- A DMA access changes these four only. -/
theorem State.dmaAccess_eq (s : State) (a : DmaAccess) :
    s.dmaAccess a = { s with mem := (s.dmaAccess a).mem, badParity := (s.dmaAccess a).badParity,
                             ft := (s.dmaAccess a).ft, pir := (s.dmaAccess a).pir } := by
  cases a with
  | write pa w => exact State.dmaWrite_eq s _ w
  | read pa => rw [State.dmaAccess, State.dmaRead_eq]

/-- So do several. -/
theorem State.foldl_dmaAccess_eq (now : List DmaAccess) (s : State) :
    now.foldl State.dmaAccess s =
      { s with mem := (now.foldl State.dmaAccess s).mem, badParity := (now.foldl State.dmaAccess s).badParity,
               ft := (now.foldl State.dmaAccess s).ft, pir := (now.foldl State.dmaAccess s).pir } := by
  induction now generalizing s with
  | nil => rfl
  | cons a now ih => rw [List.foldl_cons, ih, State.dmaAccess_eq]

/-- Nothing comes before a reference while no access waits. -/
theorem State.awaitBus_of_quiet {s : State} (h : s.bus = []) : s.awaitBus = s := by unfold State.awaitBus; rw [h]

/-- The accesses that wait for the next reference are made before it. -/
theorem State.awaitBus_of_waiting {s : State} {now : List DmaAccess} {later : List (List DmaAccess)}
    (h : s.bus = now :: later) : s.awaitBus = now.foldl State.dmaAccess { s with bus := later } := by
  unfold State.awaitBus; rw [h]

/-- What comes before a reference changes these and the schedule of the accesses only. -/
theorem State.awaitBus_eq (s : State) :
    s.awaitBus = { s with mem := s.awaitBus.mem, badParity := s.awaitBus.badParity, ft := s.awaitBus.ft,
                          pir := s.awaitBus.pir, bus := s.bus.tail } := by
  obtain ⟨bus, h⟩ : ∃ bus, s.bus = bus := ⟨_, rfl⟩
  cases bus with
  | nil => rw [State.awaitBus_of_quiet h, h, List.tail_nil, ← h]
  | cons now later =>
    rw [State.awaitBus_of_waiting h, h]; exact State.foldl_dmaAccess_eq now { s with bus := later }

theorem State.dmaAccess_advance (s : State) (n : Word) (a : DmaAccess) :
    (s.advance n).dmaAccess a = (s.dmaAccess a).advance n := by
  cases a with
  | write pa w =>
    show (if s.dmaAllowed then (if decide (pa.toNat < s.cfg.physicalWords) && s.blockProtected 64 pa.toNat then _
      else if !s.cfg.isPresent pa.toNat then _ else _) else _) = (s.dmaWrite pa.toNat w).advance n
    unfold State.dmaWrite; split_ifs <;> rfl
  | read pa =>
    show (if s.dmaAllowed && !s.romOverlays pa.toNat then (if !s.cfg.isPresent pa.toNat then _
      else if s.parityBad pa.toNat then _ else _) else _) = (s.dmaRead pa.toNat).advance n
    unfold State.dmaRead; split_ifs <;> rfl

/-- The accesses of the bus do not depend on IC. -/
theorem State.awaitBus_advance (s : State) (n : Word) : (s.advance n).awaitBus = s.awaitBus.advance n := by
  have general (now : List DmaAccess) (u : State) :
      now.foldl State.dmaAccess (u.advance n) = (now.foldl State.dmaAccess u).advance n := by
    induction now generalizing u with
    | nil => rfl
    | cons a now ih => rw [List.foldl_cons, List.foldl_cons, State.dmaAccess_advance, ih]
  unfold State.awaitBus
  show (match s.bus with | [] => _ | now :: later => _) = _
  cases s.bus with
  | nil => rfl
  | cons now later => exact general now { s with bus := later }

@[simp] theorem State.cfg_awaitBus (s : State) : s.awaitBus.cfg = s.cfg := by rw [State.awaitBus_eq]
@[simp] theorem State.regs_awaitBus (s : State) : s.awaitBus.regs = s.regs := by rw [State.awaitBus_eq]
@[simp] theorem State.ic_awaitBus (s : State) : s.awaitBus.ic = s.ic := by rw [State.awaitBus_eq]
@[simp] theorem State.sw_awaitBus (s : State) : s.awaitBus.sw = s.sw := by rw [State.awaitBus_eq]
@[simp] theorem State.mkr_awaitBus (s : State) : s.awaitBus.mkr = s.mkr := by rw [State.awaitBus_eq]
@[simp] theorem State.inten_awaitBus (s : State) : s.awaitBus.inten = s.inten := by rw [State.awaitBus_eq]
@[simp] theorem State.endly_awaitBus (s : State) : s.awaitBus.endly = s.endly := by rw [State.awaitBus_eq]
@[simp] theorem State.pihold_awaitBus (s : State) : s.awaitBus.pihold = s.pihold := by rw [State.awaitBus_eq]
@[simp] theorem State.halted_awaitBus (s : State) : s.awaitBus.halted = s.halted := by rw [State.awaitBus_eq]
@[simp] theorem State.pri_awaitBus (s : State) : s.awaitBus.pri = s.pri := by rw [State.awaitBus_eq]
@[simp] theorem State.pro_awaitBus (s : State) : s.awaitBus.pro = s.pro := by rw [State.awaitBus_eq]
@[simp] theorem State.mfsr_awaitBus (s : State) : s.awaitBus.mfsr = s.mfsr := by rw [State.awaitBus_eq]
@[simp] theorem State.mpr_awaitBus (s : State) : s.awaitBus.mpr = s.mpr := by rw [State.awaitBus_eq]
@[simp] theorem State.mpen_awaitBus (s : State) : s.awaitBus.mpen = s.mpen := by rw [State.awaitBus_eq]
@[simp] theorem State.suen_awaitBus (s : State) : s.awaitBus.suen = s.suen := by rw [State.awaitBus_eq]
@[simp] theorem State.timers_awaitBus (s : State) : s.awaitBus.timers = s.timers := by rw [State.awaitBus_eq]
@[simp] theorem State.io_awaitBus (s : State) : s.awaitBus.io = s.io := by rw [State.awaitBus_eq]
@[simp] theorem State.console_awaitBus (s : State) : s.awaitBus.console = s.console := by rw [State.awaitBus_eq]
@[simp] theorem State.env_awaitBus (s : State) : s.awaitBus.env = s.env := by rw [State.awaitBus_eq]
@[simp] theorem State.freeCount_awaitBus (s : State) : s.awaitBus.freeCount = s.freeCount := by rw [State.awaitBus_eq]
@[simp] theorem State.atExecutive_awaitBus (s : State) :
    s.awaitBus.atExecutive = s.atExecutive := by rw [State.awaitBus_eq]
@[simp] theorem State.bus_awaitBus (s : State) : s.awaitBus.bus = s.bus.tail := by rw [State.awaitBus_eq]
@[simp] theorem State.reg_awaitBus (s : State) (r : Reg) : s.awaitBus.reg r = s.reg r := by rw [State.awaitBus_eq]; rfl
@[simp] theorem State.ps_awaitBus (s : State) : s.awaitBus.ps = s.ps := by rw [State.awaitBus_eq]; rfl
@[simp] theorem State.as_awaitBus (s : State) : s.awaitBus.as = s.as := by rw [State.awaitBus_eq]; rfl
@[simp] theorem State.physical_awaitBus (s : State) (r : MemRef) : s.awaitBus.physical r = s.physical r := by
  rw [State.awaitBus_eq]; rfl
@[simp] theorem State.operandRef_awaitBus (s : State) (la : Word) : s.awaitBus.operandRef la = s.operandRef la := by
  rw [State.awaitBus_eq]; rfl
@[simp] theorem State.writeFault_awaitBus (s : State) (r : MemRef) (k : Nibble) :
    s.awaitBus.writeFault r k = s.writeFault r k := by
  rw [State.awaitBus_eq]; rfl

end Sys2Proof.Machine
end

