-- ==== Sys2Proof/Laws/References.lean ====
section
/-! SUPPORT. What the operand references of an instruction do: reads that are allowed deliver their words, a read that
is refused aborts, and writes that are allowed store theirs and change nothing else. -/

namespace Sys2Proof.Machine

open Sys2Proof.Claims

/-! ### Registers -/

@[simp] theorem State.reg_setReg (s : State) (r q : Reg) (v : Word) :
    (s.setReg r v).reg q = if q = r then v else s.reg q := by
  simp only [State.reg, State.setReg, Vector.getElem_set]
  simp [BitVec.toNat_eq, eq_comm]

theorem Reg.ne_add_one (r : Reg) : r ≠ r + 1 := by
  intro h; have := congrArg BitVec.toNat h; simp at this; omega

theorem Reg.ne_add_two (r : Reg) : r ≠ r + 2 := by
  intro h; have := congrArg BitVec.toNat h; simp at this; omega

theorem Reg.add_one_ne_add_two (r : Reg) : r + 1 ≠ r + 2 := by
  intro h; have := congrArg BitVec.toNat h; simp at this; omega

/-- The registers after a pair is written (10_state.md R53). -/
theorem State.reg_setPair (s : State) (r : Reg) (v : Double) (q : Reg) : (s.setPair r v).reg q = putPair s r v q := by
  unfold State.setPair putPair putTwo
  simp only [State.reg_setReg]
  have := Reg.ne_add_one r
  split <;> split <;> simp_all

/-- The registers after a triple is written (10_state.md R53). -/
theorem State.reg_setTriple (s : State) (r : Reg) (v : Triple) (q : Reg) :
    (s.setTriple r v).reg q = putTriple s r v q := by
  unfold State.setTriple putTriple
  simp only [State.reg_setReg]
  have h1 := Reg.ne_add_one r
  have h2 := Reg.ne_add_two r
  have h3 := Reg.add_one_ne_add_two r
  split <;> split <;> simp_all

@[simp] theorem State.cs_setCs (s : State) (c : Nibble) : (s.setCs c).cs = c := by
  unfold State.cs State.setCs
  ext i hi
  simp only [BitVec.getElem_extractLsb', BitVec.getLsbD_append]
  rw [if_neg (by omega), BitVec.getLsbD_eq_getElem (by omega)]
  congr 1; omega

/-- The rest of the status word stays when CS is set. -/
@[simp] theorem State.status_setCs (s : State) (c : Nibble) :
    (s.setCs c).sw.extractLsb' 0 12 = s.sw.extractLsb' 0 12 := by
  unfold State.setCs
  ext i hi
  simp only [BitVec.getElem_extractLsb', BitVec.getLsbD_append]
  rw [if_pos (by omega), BitVec.getLsbD_extractLsb']
  simp [hi]

@[simp] theorem State.ps_setCs (s : State) (c : Nibble) : (s.setCs c).ps = s.ps := by
  unfold State.ps State.setCs
  ext i hi
  simp only [BitVec.getElem_extractLsb', BitVec.getLsbD_append]
  rw [if_pos (by omega), BitVec.getLsbD_extractLsb']
  simp; omega

@[simp] theorem State.as_setCs (s : State) (c : Nibble) : (s.setCs c).as = s.as := by
  unfold State.as State.setCs
  ext i hi
  simp only [BitVec.getElem_extractLsb', BitVec.getLsbD_append]
  rw [if_pos (by omega), BitVec.getLsbD_extractLsb']
  simp; omega

/-! ### Reads -/

theorem Word.add_succ (la : Word) (k : Nat) : la + BitVec.ofNat 16 (k + 1) = la + 1 + BitVec.ofNat 16 k := by
  apply BitVec.eq_of_toNat_eq
  simp only [BitVec.ofNat_eq_ofNat, BitVec.toNat_add, BitVec.toNat_ofNat]
  omega

/-- A read that is allowed delivers its word. -/
theorem State.readWord_of_allowed {s : State} {r : MemRef} {key : Nibble} (h : s.readFault r key = none) :
    s.readWord r key = .ok (s.readPhysical (s.physical r)) := by
  unfold State.readWord; rw [h]

/-- A read that is refused aborts with its fault and its reference. -/
theorem State.readWord_of_refused {s : State} {r : MemRef} {key : Nibble} {k : CpuFault}
    (h : s.readFault r key = some k) : s.readWord r key = .error ⟨k, some r⟩ := by
  unfold State.readWord; rw [h]

/-- A read made while no DMA access waits delivers its word and changes nothing. -/
theorem State.read_of_allowed {s : State} {la : Word} (hb : s.bus = [])
    (h : s.readFault (s.operandRef la) s.ps = none) : s.read la = (.ok (s.wordAt la), s) := by
  unfold State.read State.reference
  rw [State.awaitBus_of_quiet hb, State.readWord_of_allowed h]; rfl

/-- A read that is refused while no DMA access waits aborts and changes nothing. -/
theorem State.read_of_refused {s : State} {la : Word} {k : CpuFault} (hb : s.bus = [])
    (h : s.readFault (s.operandRef la) s.ps = some k) :
    s.read la = (.error ⟨k, some (s.operandRef la)⟩, s) := by
  unfold State.read State.reference
  rw [State.awaitBus_of_quiet hb, State.readWord_of_refused h]

theorem State.Readable.allowed {s : State} {la : Word} {n k : Nat} (h : s.Readable la n) (hk : k < n) :
    s.readFault (s.operandRef (la + BitVec.ofNat 16 k)) s.ps = none := h.2 k hk

theorem State.read_of_readable {s : State} {la : Word} {n : Nat} (h : s.Readable la n) (hn : 0 < n) :
    s.read la = (.ok (s.wordAt la), s) := by
  have := State.Readable.allowed h hn
  rw [BitVec.add_zero] at this
  exact State.read_of_allowed h.1 this

theorem State.Readable.tail {s : State} {la : Word} {n : Nat} (h : s.Readable la (n + 1)) : s.Readable (la + 1) n := by
  refine ⟨h.1, fun k hk => ?_⟩
  have := State.Readable.allowed h (k := k + 1) (by omega)
  rwa [Word.add_succ] at this

theorem State.readDouble_of_readable {s : State} {la : Word} (h : s.Readable la 2) :
    s.readDouble la = (.ok (s.doubleAt la), s) := by
  simp only [State.readDouble, State.doubleAt, State.read_of_readable h (by omega), Reading.andThen,
    State.read_of_readable h.tail (by omega)]

theorem State.readTriple_of_readable {s : State} {la : Word} (h : s.Readable la 3) :
    s.readTriple la = (.ok (s.tripleAt la), s) := by
  have h2 : s.Readable la 2 := ⟨h.1, fun k hk => h.2 k (by omega)⟩
  have e : la + 2 = la + 1 + 1 := by rw [BitVec.add_assoc]; rfl
  simp only [State.readTriple, State.readDouble_of_readable h2, Reading.andThen, State.tripleAt, e,
    State.read_of_readable h.tail.tail (by omega)]; rfl

/-- The words that allowed reads at consecutive addresses deliver. -/
theorem State.readMany_of_readable {s : State} {la : Word} {n : Nat} (h : s.Readable la n) :
    s.readMany la n = (.ok ((List.range n).map fun k => s.wordAt (la + BitVec.ofNat 16 k)), s) := by
  induction n generalizing la with
  | zero => rfl
  | succ n ih =>
    have e : (List.range n).map (fun k => s.wordAt (la + 1 + BitVec.ofNat 16 k)) =
        (List.range n).map ((fun k => s.wordAt (la + BitVec.ofNat 16 k)) ∘ Nat.succ) :=
      List.map_congr_left fun k _ => by rw [Function.comp, Nat.succ_eq_add_one, Word.add_succ]
    simp only [State.readMany, State.read_of_readable h (by omega), ih h.tail, Reading.andThen]
    rw [e, List.range_succ_eq_map, List.map_cons, List.map_map, BitVec.add_zero]

/-- Reads keep whatever the DMA accesses before them keep. -/
theorem State.read_keeps {P : State → Prop} (await : ∀ u : State, P u → P u.awaitBus) {s : State} (h : P s)
    (la : Word) : P (s.read la).2 := await s h

/-! ### Writes -/

@[simp] theorem State.writeFault_storePhysical (s : State) (pa : Nat) (w : Word) (r : MemRef) (key : Nibble) :
    (s.storePhysical pa w).writeFault r key = s.writeFault r key := rfl

@[simp] theorem State.physical_storePhysical (s : State) (pa : Nat) (w : Word) (r : MemRef) :
    (s.storePhysical pa w).physical r = s.physical r := rfl

/-- Words stored change memory and the parity marks only. -/
theorem State.storeAll_eq (s : State) (ps : List (Nat × Word)) :
    s.storeAll ps = { s with mem := (s.storeAll ps).mem, badParity := (s.storeAll ps).badParity } := by
  induction ps generalizing s with
  | nil => rfl
  | cons p rest ih => obtain ⟨pa, w⟩ := p; rw [State.storeAll, ih]; rfl

/-- What a byte of memory holds after words are stored. -/
theorem State.byte_storeAll (s : State) (ps : List (Nat × Word)) (a : Nat) :
    Memory.byte (s.storeAll ps).mem a = storedByte ps a (Memory.byte s.mem a) := by
  induction ps generalizing s with
  | nil => rfl
  | cons p rest ih =>
    obtain ⟨pa, w⟩ := p
    rw [State.storeAll, ih, State.storePhysical_mem, Memory.byte_setWord, storedByte]; rfl

/-- The parity marks after words are stored. -/
theorem State.mem_badParity_storeAll (s : State) (ps : List (Nat × Word)) (pa : Nat) :
    pa ∈ (s.storeAll ps).badParity ↔ pa ∈ s.badParity ∧ pa ∉ ps.map (·.1) := by
  induction ps generalizing s with
  | nil => simp [State.storeAll]
  | cons p rest ih =>
    obtain ⟨pb, w⟩ := p
    rw [State.storeAll, ih]
    simp only [State.storePhysical_badParity, List.mem_filter, bne_iff_ne, List.map_cons, List.mem_cons, not_or]
    tauto

theorem State.wf_storeAll {s : State} (h : Memory.wf s.mem = true) (ps : List (Nat × Word)) :
    Memory.wf (s.storeAll ps).mem = true := by
  induction ps generalizing s with
  | nil => exact h
  | cons p rest ih => exact ih (Memory.wf_setWord h p.1 p.2)

@[simp] theorem State.storeAll_bus (s : State) (ps : List (Nat × Word)) : (s.storeAll ps).bus = s.bus := by
  rw [State.storeAll_eq]

@[simp] theorem State.writeFault_storeAll (s : State) (ps : List (Nat × Word)) (r : MemRef) (key : Nibble) :
    (s.storeAll ps).writeFault r key = s.writeFault r key := by
  rw [State.storeAll_eq]; rfl

@[simp] theorem State.physical_storeAll (s : State) (ps : List (Nat × Word)) (r : MemRef) :
    (s.storeAll ps).physical r = s.physical r := by
  rw [State.storeAll_eq]; rfl

/-- Writes that are all allowed, while no DMA access waits, store their words. -/
theorem State.writeAll_of_allowed {s : State} {group key : Nibble} {ws : List (Word × Word)} (hb : s.bus = [])
    (h : ∀ p ∈ ws, s.writeFault ⟨p.1, .operand, group⟩ key = none) :
    s.writeAll group key ws = (s.storeAll (ws.map fun p => (s.physical ⟨p.1, .operand, group⟩, p.2)), none) := by
  induction ws generalizing s with
  | nil => rfl
  | cons p rest ih =>
    obtain ⟨la, w⟩ := p
    have h0 := h (la, w) (by simp)
    simp only [State.writeAll, State.writeWord, State.awaitBus_of_quiet hb, h0]
    rw [ih (s := s.storePhysical _ w) hb (fun q hq => h q (by simp [hq]))]
    rfl

/-- Writes of which one is refused, while no DMA access waits: those before it are made, the rest are not. -/
theorem State.writeAll_of_refused {s : State} {group key : Nibble} {before rest : List (Word × Word)} {la w : Word}
    {k : CpuFault} (hb : s.bus = []) (h : ∀ p ∈ before, s.writeFault ⟨p.1, .operand, group⟩ key = none)
    (hk : s.writeFault ⟨la, .operand, group⟩ key = some k) :
    s.writeAll group key (before ++ (la, w) :: rest) =
      (s.storeAll (before.map fun p => (s.physical ⟨p.1, .operand, group⟩, p.2)),
        some ⟨k, some ⟨la, .operand, group⟩⟩) := by
  induction before generalizing s with
  | nil => simp only [List.nil_append, State.writeAll, State.writeWord, State.awaitBus_of_quiet hb, hk]; rfl
  | cons p before ih =>
    obtain ⟨lb, v⟩ := p
    have h0 := h (lb, v) (by simp)
    simp only [List.cons_append, State.writeAll, State.writeWord, State.awaitBus_of_quiet hb, h0]
    rw [ih (s := s.storePhysical _ v) hb (fun q hq => h q (by simp [hq])) hk]
    rfl

/-- A write that is not refused stores to a word that exists (20_memory.md R131). -/
theorem State.isPresent_of_writable {s : State} {r : MemRef} {key : Nibble} (h : s.writeFault r key = none) :
    s.cfg.isPresent (s.physical r) = true := by
  unfold State.writeFault at h
  by_contra hp
  simp only [Bool.not_eq_true] at hp
  simp only [hp, Bool.not_false, if_true] at h
  split_ifs at h

/-- Writes, all or up to the first that is refused, keep what the DMA accesses before them and the stores to words
that exist keep. -/
theorem State.writeAll_keeps {P : State → Prop} (await : ∀ u : State, P u → P u.awaitBus)
    (store : ∀ (u : State) (pa : Nat) (w : Word), u.cfg.isPresent pa = true → P u → P (u.storePhysical pa w))
    (group key : Nibble) (ws : List (Word × Word)) {s : State} (h : P s) : P (s.writeAll group key ws).1 := by
  induction ws generalizing s with
  | nil => exact h
  | cons p rest ih =>
    obtain ⟨la, w⟩ := p
    rw [State.writeAll, State.writeWord]
    cases hf : s.awaitBus.writeFault ⟨la, .operand, group⟩ key with
    | some k => exact await s h
    | none => exact ih (store _ _ _ (State.isPresent_of_writable hf) (await s h))

/-! ### The canonical form of memory -/

/-- A DMA access keeps the canonical form of memory. -/
theorem State.wf_dmaAccess {s : State} (h : Memory.wf s.mem = true) (a : DmaAccess) :
    Memory.wf (s.dmaAccess a).mem = true := by
  cases a with
  | write pa w =>
    show Memory.wf (s.dmaWrite pa.toNat w).mem = true
    unfold State.dmaWrite
    split_ifs
    · exact h
    · exact h
    · exact Memory.wf_setWord h _ _
    · exact h
  | read pa =>
    show Memory.wf (s.dmaRead pa.toNat).mem = true
    rw [State.dmaRead_eq]; exact h

/-- So do the accesses before a reference. -/
theorem State.wf_awaitBus {s : State} (h : Memory.wf s.mem = true) : Memory.wf s.awaitBus.mem = true := by
  have general (now : List DmaAccess) (u : State) (hu : Memory.wf u.mem = true) :
      Memory.wf (now.foldl State.dmaAccess u).mem = true := by
    induction now generalizing u with
    | nil => exact hu
    | cons a now ih => exact ih _ (State.wf_dmaAccess hu a)
  unfold State.awaitBus
  split
  · exact h
  · exact general _ _ h

/-- So do the writes of an instruction, refused or not. -/
theorem State.wf_writeAll {s : State} (h : Memory.wf s.mem = true) (group key : Nibble) (ws : List (Word × Word)) :
    Memory.wf (s.writeAll group key ws).1.mem = true :=
  State.writeAll_keeps (P := fun u => Memory.wf u.mem = true) (fun _ hu => State.wf_awaitBus hu)
    (fun _ _ _ _ hu => Memory.wf_setWord hu _ _) group key ws h

/-! ### The writes of an instruction -/

/-- The writes of an instruction that are all allowed store their words, and the instruction goes on. -/
theorem State.writeThen_of_allowed {s : State} {ws : List (Word × Word)} {k : State → State} (hb : s.bus = [])
    (h : ∀ p ∈ ws, s.writeFault (s.operandRef p.1) s.ps = none) :
    s.writeThen ws k = k (s.storeAll (ws.map fun p => (s.target p.1, p.2))) := by
  unfold State.writeThen
  rw [State.writeAll_of_allowed hb h]; rfl

/-- An instruction one of whose writes is refused is aborted, those before it made. -/
theorem State.writeThen_of_refused {s : State} {before rest : List (Word × Word)} {la w : Word} {k : State → State}
    {f : CpuFault} (hb : s.bus = []) (h : ∀ p ∈ before, s.writeFault (s.operandRef p.1) s.ps = none)
    (hk : s.writeFault (s.operandRef la) s.ps = some f) :
    s.writeThen (before ++ (la, w) :: rest) k =
      (s.storeAll (before.map fun p => (s.target p.1, p.2))).raiseFault ⟨f, some (s.operandRef la)⟩ := by
  unfold State.writeThen
  rw [State.writeAll_of_refused hb h hk]; rfl

theorem State.writable_consecutive {s : State} {la : Word} {ws : List Word} (h : s.Writable la ws.length) :
    ∀ p ∈ consecutive la ws, s.writeFault (s.operandRef p.1) s.ps = none := by
  induction ws generalizing la with
  | nil => simp [consecutive]
  | cons w rest ih =>
    intro p hp
    rw [consecutive, List.mem_cons] at hp
    rcases hp with rfl | hp
    · have := h.2 0 (by simp)
      rwa [BitVec.add_zero] at this
    · refine ih ⟨h.1, fun k hk => ?_⟩ p hp
      have := h.2 (k + 1) (by simpa using hk)
      rwa [Word.add_succ] at this

theorem consecutive_eq (la : Word) (ws : List Word) :
    consecutive la ws = ws.zipIdx.map fun p => (la + BitVec.ofNat 16 p.2, p.1) := by
  have general : ∀ (ws : List Word) (j : Nat),
      consecutive (la + BitVec.ofNat 16 j) ws = (ws.zipIdx j).map fun p => (la + BitVec.ofNat 16 p.2, p.1) := by
    intro ws
    induction ws with
    | nil => intro j; rfl
    | cons w rest ih =>
      intro j
      have e : la + BitVec.ofNat 16 j + 1 = la + BitVec.ofNat 16 (j + 1) := by
        rw [Word.add_succ, BitVec.add_assoc, BitVec.add_assoc, BitVec.add_comm 1 (BitVec.ofNat 16 j)]
      rw [consecutive, e, ih (j + 1)]; rfl
  have := general ws 0
  rwa [BitVec.add_zero] at this

/-- A store that is allowed, as the last action of an instruction. -/
theorem State.store_of_writable {s : State} {la : Word} {ws : List Word} (h : s.Writable la ws.length) :
    s.store la ws = s.storeAll (ws.zipIdx.map fun p => (s.target (la + BitVec.ofNat 16 p.2), p.1)) := by
  unfold State.store
  rw [State.writeThen_of_allowed h.1 (State.writable_consecutive h), id, consecutive_eq, List.map_map]; rfl

end Sys2Proof.Machine
end

