-- ==== Sys2Proof/Laws/Leaves.lean ====
section
/-! SUPPORT. What an instruction leaves, built up update by update: each lemma says what `Leaves` becomes when one more
update of the state is made. -/

namespace Sys2Proof.Claims

open Sys2Proof.Machine

/-- IC moved, nothing else. -/
theorem leaves_advance (s : State) (len : Word) : Leaves s (s.advance len) (s.ic + len) s.reg s.cs 0 [] where
  counter := rfl
  registers _ := rfl
  condition := rfl
  status := rfl
  pending := (BitVec.or_zero (x := s.pir)).symm
  memory _ := rfl
  parity _ := by simp
  rest := rfl

section Updates

variable {s t : State} {ic : Word} {regs : Reg → Word} {cs : Nibble} {requests : Word} {stored : List (Nat × Word)}

/-- A register written. -/
theorem Leaves.setReg (h : Leaves s t ic regs cs requests stored) (r : Reg) (v : Word) :
    Leaves s (t.setReg r v) ic (fun q => if q = r then v else regs q) cs requests stored where
  counter := h.counter
  registers q := by rw [State.reg_setReg, h.registers]
  condition := h.condition
  status := h.status
  pending := h.pending
  memory := h.memory
  parity := h.parity
  rest := h.rest

/-- CS set. -/
theorem Leaves.setCs (h : Leaves s t ic regs cs requests stored) (c : Nibble) :
    Leaves s (t.setCs c) ic regs c requests stored where
  counter := h.counter
  registers := h.registers
  condition := State.cs_setCs t c
  status := (State.status_setCs t c).trans h.status
  pending := h.pending
  memory := h.memory
  parity := h.parity
  rest := h.rest

/-- An interrupt requested under a condition. -/
theorem Leaves.requestIf (h : Leaves s t ic regs cs requests stored) (b : Bool) (n : Nat) :
    Leaves s (t.requestIf b n) ic regs cs (requests ||| request b n) stored where
  counter := h.counter
  registers := h.registers
  condition := h.condition
  status := h.status
  pending := by rw [State.requestIf_pir, h.pending, BitVec.or_assoc]; rfl
  memory := h.memory
  parity := h.parity
  rest := h.rest

/-- IC set. -/
theorem Leaves.jumpTo (h : Leaves s t ic regs cs requests stored) (target : Word) :
    Leaves s (t.jumpTo target) target regs cs requests stored where
  counter := rfl
  registers := h.registers
  condition := h.condition
  status := h.status
  pending := h.pending
  memory := h.memory
  parity := h.parity
  rest := h.rest

/-- Words stored, the first stores of the instruction. -/
theorem Leaves.storeAll (h : Leaves s t ic regs cs requests []) (ps : List (Nat × Word)) :
    Leaves s (t.storeAll ps) ic regs cs requests ps := by
  have e := State.storeAll_eq t ps
  exact {
    counter := by rw [e]; exact h.counter
    registers := by rw [e]; exact h.registers
    condition := by rw [e]; exact h.condition
    status := by rw [e]; exact h.status
    pending := by rw [e]; exact h.pending
    memory := fun a => by rw [State.byte_storeAll, h.memory a]; rfl
    parity := fun pa => by rw [State.mem_badParity_storeAll, h.parity pa]; simp
    rest := by rw [e]; exact h.rest }

/-- The same facts under other names of the same values. -/
theorem Leaves.congr (h : Leaves s t ic regs cs requests stored) {ic' : Word} {regs' : Reg → Word} {cs' : Nibble}
    {requests' : Word} (hic : ic = ic') (hregs : ∀ r, regs r = regs' r) (hcs : cs = cs')
    (hreq : requests = requests') : Leaves s t ic' regs' cs' requests' stored := by
  subst hic hcs hreq
  rw [show regs' = regs from funext fun r => (hregs r).symm]
  exact h

/-- Words written to registers in order: each register holds the last one written to it (44_load.md R384). -/
theorem Leaves.setRegs (h : Leaves s t ic regs cs requests stored) (ps : List (Reg × Word)) :
    Leaves s (Machine.setRegs ps t) ic (fun q => ((ps.reverse.find? fun p => p.1 == q).map (·.2)).getD (regs q)) cs
      requests stored := by
  induction ps generalizing t regs with
  | nil => exact h
  | cons p rest ih =>
    obtain ⟨r, v⟩ := p
    refine (ih (h.setReg r v)).congr rfl (fun q => ?_) rfl rfl
    simp only [List.reverse_cons, List.find?_append]
    cases h2 : rest.reverse.find? fun p => p.1 == q with
    | some x => simp
    | none =>
      by_cases h3 : q = r
      · subst h3; simp
      · simp [h3, Ne.symm h3]

/-- The same stores under other names. -/
theorem Leaves.storing (h : Leaves s t ic regs cs requests stored) {stored' : List (Nat × Word)}
    (hs : stored = stored') : Leaves s t ic regs cs requests stored' := hs ▸ h

/-- Words stored at consecutive addresses that can be written, the last action of an instruction. -/
theorem Leaves.store (h : Leaves s t ic regs cs requests []) {la : Word} {ws : List Word}
    (hw : t.Writable la ws.length) :
    Leaves s (t.store la ws) ic regs cs requests
      (ws.zipIdx.map fun p => (t.target (la + BitVec.ofNat 16 p.2), p.1)) := by
  rw [State.store_of_writable hw]; exact h.storeAll _

end Updates

/-- An advance of IC changes no translation (20_memory.md R121). -/
@[simp] theorem State.target_advance (s : State) (len la : Word) : (s.advance len).target la = s.target la := rfl

theorem request_zero_or (b : Bool) (n : Nat) : (0 : Word) ||| request b n = request b n := BitVec.zero_or

/-- A pair written. -/
theorem Leaves.setPair {s t : State} {ic : Word} {cs : Nibble} {requests : Word} {stored : List (Nat × Word)}
    (h : Leaves s t ic s.reg cs requests stored) (r : Reg) (v : Double) :
    Leaves s (t.setPair r v) ic (putPair s r v) cs requests stored :=
  ((h.setReg r _).setReg (r + 1) _).congr rfl (fun q => by
    have := Reg.ne_add_one r
    unfold putPair putTwo
    split <;> split <;> simp_all) rfl rfl

/-- A triple written. -/
theorem Leaves.setTriple {s t : State} {ic : Word} {cs : Nibble} {requests : Word} {stored : List (Nat × Word)}
    (h : Leaves s t ic s.reg cs requests stored) (r : Reg) (v : Triple) :
    Leaves s (t.setTriple r v) ic (putTriple s r v) cs requests stored :=
  (((h.setReg r _).setReg (r + 1) _).setReg (r + 2) _).congr rfl (fun q => by
    have h1 := Reg.ne_add_one r
    have h2 := Reg.ne_add_two r
    have h3 := Reg.add_one_ne_add_two r
    unfold putTriple
    split <;> split <;> simp_all) rfl rfl

/-! ### Condition status -/

/-- The condition status of a bit vector is that of the integer it stands for (00_scope.md R20). -/
theorem csSign_eq {w : Nat} (v : BitVec w) : csSign v = condition v.toInt := by
  unfold csSign condition
  have hz : v = 0 ↔ v.toInt = 0 := by
    constructor
    · rintro rfl; simp
    · intro h; exact BitVec.eq_of_toInt_eq (by simpa using h)
  have hn : v.msb = true ↔ v.toInt < 0 := BitVec.msb_eq_toInt ▸ decide_eq_true_iff
  by_cases h0 : v = 0
  · rw [if_pos h0, if_pos (hz.mp h0)]
  · rw [if_neg h0, if_neg (fun h => h0 (hz.mpr h))]
    by_cases h1 : v.msb = true
    · rw [if_pos h1, if_pos (hn.mp h1)]
    · rw [if_neg h1, if_neg (fun h => h1 (hn.mpr h))]

theorem csArith_eq {w : Nat} (c : Bool) (v : BitVec w) : csArith c v = withCarry c (condition v.toInt) := by
  unfold csArith withCarry; rw [csSign_eq]

theorem csCompare_eq (a d : Int) : csCompare a d = condition (a - d) := by
  unfold csCompare condition
  split <;> split <;> (try split) <;> (try split) <;> first | rfl | omega

theorem outOfRange_word (x : Int) : outOfRange 16 x = exceedsWord x := by
  have e : (Nat.pow 2 (16 - 1) : Nat) = 32768 := by decide
  unfold outOfRange exceedsWord
  rw [e, Bool.eq_iff_iff]; simp; omega

theorem outOfRange_double (x : Int) : outOfRange 32 x = exceedsDouble x := by
  have e : (Nat.pow 2 (32 - 1) : Nat) = 2147483648 := by decide
  unfold outOfRange exceedsDouble
  rw [e, Bool.eq_iff_iff]; simp; omega

end Sys2Proof.Claims
end

