-- ==== Sys2Proof/Laws/Arithmetic.lean ====
section
/-! SUPPORT. What the fixed point arithmetic of Flags.lean answers, said with integers: value, carry and overflow of a
sum and a difference, negative and absolute value, products and quotients. -/

namespace Sys2Proof.Claims

open Sys2Proof.Machine

/-- The first of two words put together. -/
theorem Word.first_of_two (a b : Word) : (a ++ b : Double).extractLsb' 16 16 = a := by
  apply BitVec.eq_of_getLsbD_eq
  intro i hi
  rw [BitVec.getLsbD_extractLsb', BitVec.getLsbD_append]
  simp [hi]

/-- The second of two words put together. -/
theorem Word.second_of_two (a b : Word) : (a ++ b : Double).extractLsb' 0 16 = b := by
  apply BitVec.eq_of_getLsbD_eq
  intro i hi
  rw [BitVec.getLsbD_extractLsb', BitVec.getLsbD_append]
  simp [hi]

/-- The value of a sum (46_add_subtract.md R431). -/
theorem addFixed_value {w : Nat} (a b : BitVec w) : (addFixed a b).value = BitVec.ofInt w (a.toInt + b.toInt) := by
  show a + b = _
  rw [BitVec.ofInt_add, BitVec.ofInt_toInt, BitVec.ofInt_toInt]

/-- The difference is the accumulator plus the complement of the operand plus one (46_add_subtract.md R432). -/
theorem subFixed_eq {w : Nat} (a b : BitVec w) : a + ~~~b + 1 = a - b := by
  rw [BitVec.sub_eq_add_neg, BitVec.neg_eq_not_add, BitVec.add_assoc]; rfl

/-- The value of a difference (46_add_subtract.md R432). -/
theorem subFixed_value {w : Nat} (a b : BitVec w) : (subFixed a b).value = BitVec.ofInt w (a.toInt - b.toInt) := by
  show a + ~~~b + 1 = _
  rw [subFixed_eq]
  apply BitVec.eq_of_toInt_eq
  rw [BitVec.toInt_sub, BitVec.toInt_ofInt]

/-- The carry of a word difference is the absence of a borrow (46_add_subtract.md R432). -/
theorem subFixed_carry_word (a b : Word) : (subFixed a b).carry = decide (b.toNat ≤ a.toNat) := by
  show decide (Nat.pow 2 16 ≤ a.toNat + (~~~b).toNat + 1) = _
  rw [BitVec.toNat_not, show Nat.pow 2 16 = 65536 from rfl, decide_eq_decide]
  omega

/-- The carry of a double difference is the absence of a borrow (46_add_subtract.md R432). -/
theorem subFixed_carry_double (a b : Double) : (subFixed a b).carry = decide (b.toNat ≤ a.toNat) := by
  show decide (Nat.pow 2 32 ≤ a.toNat + (~~~b).toNat + 1) = _
  rw [BitVec.toNat_not, show Nat.pow 2 32 = 4294967296 from rfl, decide_eq_decide]
  omega

/-- A word sum overflows when the exact sum is no word (00_scope.md R23). -/
theorem addFixed_overflow_word (a b : Word) : (addFixed a b).overflow = exceedsWord (a.toInt + b.toInt) := by
  unfold addFixed exceedsWord
  rw [Bool.eq_iff_iff]
  simp only [Bool.and_eq_true, beq_iff_eq, bne_iff_ne, ne_eq, Bool.or_eq_true, decide_eq_true_eq,
    BitVec.msb_eq_toInt, BitVec.toInt_add]
  have := BitVec.toInt_lt (x := a); have := BitVec.toInt_lt (x := b)
  have := BitVec.le_toInt (x := a); have := BitVec.le_toInt (x := b)
  simp only [Int.bmod] at *
  simp at *
  split <;> omega

/-- A double sum overflows when the exact sum is no double (00_scope.md R23). -/
theorem addFixed_overflow_double (a b : Double) : (addFixed a b).overflow = exceedsDouble (a.toInt + b.toInt) := by
  unfold addFixed exceedsDouble
  rw [Bool.eq_iff_iff]
  simp only [Bool.and_eq_true, beq_iff_eq, bne_iff_ne, ne_eq, Bool.or_eq_true, decide_eq_true_eq,
    BitVec.msb_eq_toInt, BitVec.toInt_add]
  have := BitVec.toInt_lt (x := a); have := BitVec.toInt_lt (x := b)
  have := BitVec.le_toInt (x := a); have := BitVec.le_toInt (x := b)
  simp only [Int.bmod] at *
  simp at *
  split <;> omega

/-- A word difference overflows when the exact difference is no word (00_scope.md R23). -/
theorem subFixed_overflow_word (a b : Word) : (subFixed a b).overflow = exceedsWord (a.toInt - b.toInt) := by
  unfold subFixed exceedsWord
  rw [Bool.eq_iff_iff]
  simp only [subFixed_eq, Bool.and_eq_true, beq_iff_eq, bne_iff_ne, ne_eq, Bool.or_eq_true, decide_eq_true_eq,
    BitVec.msb_eq_toInt, BitVec.toInt_sub]
  have := BitVec.toInt_lt (x := a); have := BitVec.toInt_lt (x := b)
  have := BitVec.le_toInt (x := a); have := BitVec.le_toInt (x := b)
  simp only [Int.bmod] at *
  simp at *
  split <;> omega

/-- A double difference overflows when the exact difference is no double (00_scope.md R23). -/
theorem subFixed_overflow_double (a b : Double) : (subFixed a b).overflow = exceedsDouble (a.toInt - b.toInt) := by
  unfold subFixed exceedsDouble
  rw [Bool.eq_iff_iff]
  simp only [subFixed_eq, Bool.and_eq_true, beq_iff_eq, bne_iff_ne, ne_eq, Bool.or_eq_true, decide_eq_true_eq,
    BitVec.msb_eq_toInt, BitVec.toInt_sub]
  have := BitVec.toInt_lt (x := a); have := BitVec.toInt_lt (x := b)
  have := BitVec.le_toInt (x := a); have := BitVec.le_toInt (x := b)
  simp only [Int.bmod] at *
  simp at *
  split <;> omega

/-- The negative of a number, modulo 2^w (46_add_subtract.md R460, R461). -/
theorem negFixed_value {w : Nat} (d : BitVec w) : (negFixed d).1 = BitVec.ofInt w (-d.toInt) := by
  show 0 - d = _
  rw [BitVec.ofInt_neg, BitVec.ofInt_toInt]; exact BitVec.zero_sub d

/-- The absolute value of a number, modulo 2^w (46_add_subtract.md R442, R443). -/
theorem absFixed_value {w : Nat} (d : BitVec w) : (absFixed d).1 = BitVec.ofInt w d.toInt.natAbs := by
  show (if d.msb then 0 - d else d) = _
  by_cases h : d.msb = true
  · have h0 : d.toInt < 0 := by rw [BitVec.msb_eq_toInt] at h; exact of_decide_eq_true h
    rw [if_pos h, show ((d.toInt.natAbs : Nat) : Int) = -d.toInt by omega]
    exact negFixed_value d
  · have h0 : ¬ d.toInt < 0 := by rw [BitVec.msb_eq_toInt] at h; simpa using h
    rw [if_neg h, show ((d.toInt.natAbs : Nat) : Int) = d.toInt by omega, BitVec.ofInt_toInt]

/-- A number is the most negative one of its width (46_add_subtract.md R442). -/
theorem eq_intMin_word (d : Word) : (d == BitVec.intMin 16) = decide (d.toInt = -32768) := by
  rw [Bool.eq_iff_iff, beq_iff_eq, decide_eq_true_eq, ← BitVec.toInt_inj]; rfl

theorem eq_intMin_double (d : Double) : (d == BitVec.intMin 32) = decide (d.toInt = -2147483648) := by
  rw [Bool.eq_iff_iff, beq_iff_eq, decide_eq_true_eq, ← BitVec.toInt_inj]; rfl

/-- A division by a word (00_scope.md R33; 47_multiply_divide.md R485, R486). -/
theorem divFixed_of_ne {w : Nat} (a : BitVec w) {b : Word} (h : b ≠ 0) :
    divFixed a b = (BitVec.ofInt 16 (Int.tdiv a.toInt b.toInt), BitVec.ofInt 16 (Int.tmod a.toInt b.toInt),
      exceedsWord (Int.tdiv a.toInt b.toInt)) := by
  unfold divFixed; rw [if_neg h, ← outOfRange_word]

/-- A division by a double (47_multiply_divide.md R487). -/
theorem divDouble_of_ne (a : Double) {b : Double} (h : b ≠ 0) :
    divDouble a b = (BitVec.ofInt 32 (Int.tdiv a.toInt b.toInt), exceedsDouble (Int.tdiv a.toInt b.toInt)) := by
  unfold divDouble; rw [if_neg h, ← outOfRange_double]

/-- A product of two words fits a double (47_multiply_divide.md R482). -/
theorem mulWide_toInt (a b : Word) : (mulWide a b).toInt = a.toInt * b.toInt := by
  have h1 := BitVec.toInt_lt (x := a); have h2 := BitVec.toInt_lt (x := b)
  have h3 := BitVec.le_toInt (x := a); have h4 := BitVec.le_toInt (x := b)
  simp at h1 h2 h3 h4
  unfold mulWide
  rw [BitVec.toInt_ofInt]
  apply Int.bmod_eq_of_le <;> simp <;> nlinarith

end Sys2Proof.Claims
end

