-- ==== Sys2Proof/Laws/Decode.lean ====
section
/-! SUPPORT. The fields of the words that the encoder writes: what the decoder takes out of each is what the encoder put
in. One lemma for each field of each shape of first word (30_encoding.md R170 to R178). -/

namespace Sys2Proof

/-! ### Register-to-register and long first words -/

theorem opByte_wordOf (op : Byte) (a b : Nibble) : opByte (wordOf op a b) = op := by
  ext i hi
  simp only [opByte, wordOf, BitVec.getElem_extractLsb', BitVec.getLsbD_append]
  rw [if_neg (by omega), if_neg (by omega), BitVec.getLsbD_eq_getElem (by omega)]
  congr 1; omega

theorem fieldOne_wordOf (op : Byte) (a b : Nibble) : fieldOne (wordOf op a b) = a := by
  ext i hi
  simp only [fieldOne, wordOf, BitVec.getElem_extractLsb', BitVec.getLsbD_append]
  rw [if_neg (by omega), if_pos (by omega), BitVec.getLsbD_eq_getElem (by omega)]
  congr 1; omega

theorem fieldTwo_wordOf (op : Byte) (a b : Nibble) : fieldTwo (wordOf op a b) = b := by
  ext i hi
  simp only [fieldTwo, wordOf, BitVec.getElem_extractLsb', BitVec.getLsbD_append]
  rw [if_pos (by omega), BitVec.getLsbD_eq_getElem (by omega)]
  congr 1; omega

/-- The first two bits of a first word are those of its operation code. -/
theorem topTwo_wordOf (op : Byte) (a b : Nibble) : (wordOf op a b).extractLsb' 14 2 = op.extractLsb' 6 2 := by
  ext i hi
  simp only [wordOf, BitVec.getElem_extractLsb', BitVec.getLsbD_append]
  rw [if_neg (by omega), if_neg (by omega)]
  congr 1; omega

/-- The first six bits of a first word are those of its operation code. -/
theorem topSix_wordOf (op : Byte) (a b : Nibble) : (wordOf op a b).extractLsb' 10 6 = op.extractLsb' 2 6 := by
  ext i hi
  simp only [wordOf, BitVec.getElem_extractLsb', BitVec.getLsbD_append]
  rw [if_neg (by omega), if_neg (by omega)]
  congr 1; omega

/-! ### IC relative words -/

theorem opByte_wordOfByte (op d : Byte) : opByte (wordOfByte op d) = op := by
  ext i hi
  simp only [opByte, wordOfByte, BitVec.getElem_extractLsb', BitVec.getLsbD_append]
  rw [if_neg (by omega), BitVec.getLsbD_eq_getElem (by omega)]
  congr 1; omega

theorem lowByte_wordOfByte (op d : Byte) : lowByte (wordOfByte op d) = d := by
  ext i hi
  simp only [lowByte, wordOfByte, BitVec.getElem_extractLsb', BitVec.getLsbD_append]
  rw [if_pos (by omega), BitVec.getLsbD_eq_getElem (by omega)]
  congr 1; omega

/-! ### Base relative words -/

theorem opByte_wordOfBase (op : BitVec 6) (br : Reg) (du : Byte) :
    opByte (wordOfBase op br du) = op ++ br.extractLsb' 0 2 := opByte_wordOfByte (op ++ br.extractLsb' 0 2) du

theorem lowByte_wordOfBase (op : BitVec 6) (br : Reg) (du : Byte) : lowByte (wordOfBase op br du) = du :=
  lowByte_wordOfByte (op ++ br.extractLsb' 0 2) du

theorem opByte_wordOfBaseIndexed (ext : Nibble) (br rx : Reg) :
    opByte (wordOfBaseIndexed ext br rx) = 16#6 ++ br.extractLsb' 0 2 :=
  opByte_wordOf (16#6 ++ br.extractLsb' 0 2) ext rx

theorem fieldOne_wordOfBaseIndexed (ext : Nibble) (br rx : Reg) : fieldOne (wordOfBaseIndexed ext br rx) = ext :=
  fieldOne_wordOf (16#6 ++ br.extractLsb' 0 2) ext rx

theorem fieldTwo_wordOfBaseIndexed (ext : Nibble) (br rx : Reg) : fieldTwo (wordOfBaseIndexed ext br rx) = rx :=
  fieldTwo_wordOf (16#6 ++ br.extractLsb' 0 2) ext rx

/-- A base register is named by its two low bits (30_encoding.md R175). -/
theorem base_of_ok (br : Reg) (h : baseOk br = true) : (3#2 ++ br.extractLsb' 0 2 : Reg) = br := by
  revert br; decide

/-- A count is named by its field (30_encoding.md R187, R216). -/
theorem count_of_ok (n : Nat) (h : countOk n = true) : (countField n).toNat + 1 = n := by
  simp only [countOk, Bool.and_eq_true, decide_eq_true_eq] at h
  simp only [countField, BitVec.toNat_ofNat]
  omega

/-! ### How long an instruction is -/

theorem isLong_wordOf (op : Byte) (a b : Nibble) : isLong (wordOf op a b) = longOps.contains op.toNat := by
  unfold isLong; rw [opByte_wordOf]

theorem isLong_wordOfByte (op d : Byte) : isLong (wordOfByte op d) = longOps.contains op.toNat := by
  unfold isLong; rw [opByte_wordOfByte]

/-- No base relative instruction has a second word (30_encoding.md R172). -/
theorem isLong_wordOfBase (op : BitVec 6) (br : Reg) (du : Byte) (h : op ≤ 17#6) :
    isLong (wordOfBase op br du) = false := by
  have key : ∀ (o : BitVec 6) (x : BitVec 2), o ≤ 17#6 → longOps.contains (o ++ x).toNat = false := by decide
  unfold isLong; rw [opByte_wordOfBase]; exact key op _ h

/-- No base relative indexed instruction has a second word (30_encoding.md R172). -/
theorem isLong_wordOfBaseIndexed (ext : Nibble) (br rx : Reg) : isLong (wordOfBaseIndexed ext br rx) = false := by
  have key : ∀ x : BitVec 2, longOps.contains (16#6 ++ x).toNat = false := by decide
  unfold isLong; rw [opByte_wordOfBaseIndexed]; exact key _

end Sys2Proof
end

