-- ==== Sys2Proof/Laws/Forms.lean ====
section
/-! SUPPORT. What each instruction does when its operand can be read: the shared operation of its shape, on the operand,
on the state past the instruction. One lemma per shape, each read off the arms of exec. -/

namespace Sys2Proof.Claims

open Sys2Proof.Machine

/-! ### Reading an operand -/

theorem shortNegative_eq (n : Nat) : shortNegative n = BitVec.ofInt 16 (-n) := by
  unfold shortNegative
  rw [BitVec.ofInt_neg, BitVec.ofInt_natCast, BitVec.zero_sub]

/-- An instruction whose operand cannot be read is aborted (60_exceptions.md R601). -/
theorem onOperand_of_error {α : Type} {s t : State} {len : Word} {operand : State → Reading α} {e : Abort}
    (h : operand (s.advance len) = (.error e, t)) (k : α → State → State) :
    onOperand s len operand k = .next (t.raiseFault e) := by
  unfold onOperand; rw [h]; rfl

/-- An instruction whose operand can be read goes on with it. -/
theorem onOperand_of_ok {α : Type} {s : State} {len : Word} {operand : State → Reading α} {v : α}
    (h : operand (s.advance len) = (.ok v, s.advance len)) (k : α → State → State) :
    onOperand s len operand k = .next (k v (s.advance len)) := by
  unfold onOperand; rw [h]; rfl

section Modes

variable {s : State}

theorem basedWord_ok {br : Reg} {du : Byte} (h : (Operand.base br du).Readable s 1) :
    s.basedWord br du = (.ok ((Operand.base br du).word s), s) := State.read_of_readable (h.2 _ rfl) (by omega)

theorem baseIndexedWord_ok {br rx : Reg} (h : (Operand.baseIndexed br rx).Readable s 1) :
    s.baseIndexedWord br rx = (.ok ((Operand.baseIndexed br rx).word s), s) :=
  State.read_of_readable (h.2 _ rfl) (by omega)

theorem directWord_ok {addr : Word} {rx : Reg} (h : (Operand.direct addr rx).Readable s 1) :
    s.directWord addr rx = (.ok ((Operand.direct addr rx).word s), s) :=
  State.read_of_readable (h.2 _ rfl) (by omega)

theorem indirect_ok {addr : Word} {rx : Reg} (h : s.Readable (s.direct addr rx) 1) :
    s.indirect addr rx = (.ok (s.wordAt (s.direct addr rx)), s) := State.read_of_readable h (by omega)

theorem indirectWord_ok {addr : Word} {rx : Reg} (h : (Operand.indirect addr rx).Readable s 1) :
    s.indirectWord addr rx = (.ok ((Operand.indirect addr rx).word s), s) := by
  unfold State.indirectWord
  rw [indirect_ok h.1]
  exact State.read_of_readable (h.2 _ rfl) (by omega)

theorem basedDouble_ok {br : Reg} {du : Byte} (h : (Operand.base br du).Readable s 2) :
    s.basedDouble br du = (.ok ((Operand.base br du).double s), s) := State.readDouble_of_readable (h.2 _ rfl)

theorem baseIndexedDouble_ok {br rx : Reg} (h : (Operand.baseIndexed br rx).Readable s 2) :
    s.baseIndexedDouble br rx = (.ok ((Operand.baseIndexed br rx).double s), s) :=
  State.readDouble_of_readable (h.2 _ rfl)

theorem directDouble_ok {addr : Word} {rx : Reg} (h : (Operand.direct addr rx).Readable s 2) :
    s.directDouble addr rx = (.ok ((Operand.direct addr rx).double s), s) := State.readDouble_of_readable (h.2 _ rfl)

theorem indirectDouble_ok {addr : Word} {rx : Reg} (h : (Operand.indirect addr rx).Readable s 2) :
    s.indirectDouble addr rx = (.ok ((Operand.indirect addr rx).double s), s) := by
  unfold State.indirectDouble
  rw [indirect_ok h.1]
  exact State.readDouble_of_readable (h.2 _ rfl)

theorem directTriple_ok {addr : Word} {rx : Reg} (h : (Operand.direct addr rx).Readable s 3) :
    s.directTriple addr rx = (.ok ((Operand.direct addr rx).triple s), s) := State.readTriple_of_readable (h.2 _ rfl)

theorem directCell_ok {addr : Word} {rx : Reg} (h : (Operand.direct addr rx).Readable s 1) :
    s.directCell addr rx = (.ok (s.direct addr rx, (Operand.direct addr rx).word s), s) := by
  unfold State.directCell State.cell
  rw [State.read_of_readable (h.2 _ rfl) (by omega)]; rfl

theorem indirectCell_ok {addr : Word} {rx : Reg} (h : (Operand.indirect addr rx).Readable s 1) :
    s.indirectCell addr rx = (.ok (s.wordAt (s.direct addr rx), (Operand.indirect addr rx).word s), s) := by
  unfold State.indirectCell
  rw [indirect_ok h.1]
  show (s.read _).andThen _ = _
  rw [State.read_of_readable (h.2 _ rfl) (by omega)]; rfl

/-! ### An instruction whose operand can be read: reading it does not depend on IC -/

theorem on_basedWord {br : Reg} {du : Byte} (h : (Operand.base br du).Readable s 1)
    (len : Word) (k : Word → State → State) :
    onOperand s len (fun n => n.basedWord br du) k = .next (k ((Operand.base br du).word s) (s.advance len)) :=
  onOperand_of_ok (@basedWord_ok (s.advance len) _ _ h) k

theorem on_baseIndexedWord {br rx : Reg} (h : (Operand.baseIndexed br rx).Readable s 1)
    (len : Word) (k : Word → State → State) :
    onOperand s len (fun n => n.baseIndexedWord br rx) k =
      .next (k ((Operand.baseIndexed br rx).word s) (s.advance len)) :=
  onOperand_of_ok (@baseIndexedWord_ok (s.advance len) _ _ h) k

theorem on_directWord {addr : Word} {rx : Reg} (h : (Operand.direct addr rx).Readable s 1)
    (len : Word) (k : Word → State → State) :
    onOperand s len (fun n => n.directWord addr rx) k = .next (k ((Operand.direct addr rx).word s) (s.advance len)) :=
  onOperand_of_ok (@directWord_ok (s.advance len) _ _ h) k

theorem on_indirectWord {addr : Word} {rx : Reg} (h : (Operand.indirect addr rx).Readable s 1)
    (len : Word) (k : Word → State → State) :
    onOperand s len (fun n => n.indirectWord addr rx) k =
      .next (k ((Operand.indirect addr rx).word s) (s.advance len)) :=
  onOperand_of_ok (@indirectWord_ok (s.advance len) _ _ h) k

theorem on_basedDouble {br : Reg} {du : Byte} (h : (Operand.base br du).Readable s 2)
    (len : Word) (k : Double → State → State) :
    onOperand s len (fun n => n.basedDouble br du) k = .next (k ((Operand.base br du).double s) (s.advance len)) :=
  onOperand_of_ok (@basedDouble_ok (s.advance len) _ _ h) k

theorem on_baseIndexedDouble {br rx : Reg} (h : (Operand.baseIndexed br rx).Readable s 2)
    (len : Word) (k : Double → State → State) :
    onOperand s len (fun n => n.baseIndexedDouble br rx) k =
      .next (k ((Operand.baseIndexed br rx).double s) (s.advance len)) :=
  onOperand_of_ok (@baseIndexedDouble_ok (s.advance len) _ _ h) k

theorem on_directDouble {addr : Word} {rx : Reg} (h : (Operand.direct addr rx).Readable s 2)
    (len : Word) (k : Double → State → State) :
    onOperand s len (fun n => n.directDouble addr rx) k =
      .next (k ((Operand.direct addr rx).double s) (s.advance len)) :=
  onOperand_of_ok (@directDouble_ok (s.advance len) _ _ h) k

theorem on_indirectDouble {addr : Word} {rx : Reg} (h : (Operand.indirect addr rx).Readable s 2)
    (len : Word) (k : Double → State → State) :
    onOperand s len (fun n => n.indirectDouble addr rx) k =
      .next (k ((Operand.indirect addr rx).double s) (s.advance len)) :=
  onOperand_of_ok (@indirectDouble_ok (s.advance len) _ _ h) k

theorem on_directTriple {addr : Word} {rx : Reg} (h : (Operand.direct addr rx).Readable s 3)
    (len : Word) (k : Triple → State → State) :
    onOperand s len (fun n => n.directTriple addr rx) k =
      .next (k ((Operand.direct addr rx).triple s) (s.advance len)) :=
  onOperand_of_ok (@directTriple_ok (s.advance len) _ _ h) k

theorem on_indirect {addr : Word} {rx : Reg} (h : s.Readable (s.direct addr rx) 1)
    (len : Word) (k : Word → State → State) :
    onOperand s len (fun n => n.indirect addr rx) k = .next (k (s.wordAt (s.direct addr rx)) (s.advance len)) :=
  onOperand_of_ok (@indirect_ok (s.advance len) _ _ h) k

theorem on_directCell {addr : Word} {rx : Reg} (h : (Operand.direct addr rx).Readable s 1)
    (len : Word) (k : Word × Word → State → State) :
    onOperand s len (fun n => n.directCell addr rx) k =
      .next (k ((s.direct addr rx, (Operand.direct addr rx).word s)) (s.advance len)) :=
  onOperand_of_ok (@directCell_ok (s.advance len) _ _ h) k

theorem on_indirectCell {addr : Word} {rx : Reg} (h : (Operand.indirect addr rx).Readable s 1)
    (len : Word) (k : Word × Word → State → State) :
    onOperand s len (fun n => n.indirectCell addr rx) k =
      .next (k ((s.wordAt (s.direct addr rx), (Operand.indirect addr rx).word s)) (s.advance len)) :=
  onOperand_of_ok (@indirectCell_ok (s.advance len) _ _ h) k

end Modes

/-! ### One lemma per shape -/

/-- The single precision loads. -/
theorem LoadForm.exec_eq {i : Instr} {acc : Reg} {len : Word} {q : Operand} {s : State}
    (h : LoadForm i acc len q) (hq : q.Readable s 1) : exec i s = .next (loadWord acc (q.word s) (s.advance len)) := by
  cases h with
  | lr => rfl
  | lb => exact on_basedWord hq _ _
  | lbx => exact on_baseIndexedWord hq _ _
  | lisp => rfl
  | lisn => exact congrArg (fun w => Host.Outcome.next (loadWord _ w (s.advance 1))) (shortNegative_eq _)
  | l => exact on_directWord hq _ _
  | lim => rfl
  | li => exact on_indirectWord hq _ _

/-- The single precision additions. -/
theorem AddForm.exec_eq {i : Instr} {acc : Reg} {len : Word} {q : Operand} {s : State}
    (h : AddForm i acc len q) (hq : q.Readable s 1) : exec i s = .next (addWord acc (q.word s) (s.advance len)) := by
  cases h with
  | ar => rfl
  | ab => exact on_basedWord hq _ _
  | abx => exact on_baseIndexedWord hq _ _
  | aisp => rfl
  | a => exact on_directWord hq _ _
  | aim => rfl

/-- The single precision subtractions. -/
theorem SubtractForm.exec_eq {i : Instr} {acc : Reg} {len : Word} {q : Operand} {s : State}
    (h : SubtractForm i acc len q) (hq : q.Readable s 1) :
    exec i s = .next (subWord acc (q.word s) (s.advance len)) := by
  cases h with
  | sr => rfl
  | sbb => exact on_basedWord hq _ _
  | sbbx => exact on_baseIndexedWord hq _ _
  | sisp => rfl
  | s => exact on_directWord hq _ _
  | sim => rfl

/-- The multiplications with a 16-bit product. -/
theorem MultiplyWordForm.exec_eq {i : Instr} {acc : Reg} {len : Word} {q : Operand} {s : State}
    (h : MultiplyWordForm i acc len q) (hq : q.Readable s 1) :
    exec i s = .next (mulWord acc (q.word s) (s.advance len)) := by
  cases h with
  | msr => rfl
  | misp => rfl
  | misn => exact congrArg (fun w => Host.Outcome.next (mulWord _ w (s.advance 1))) (shortNegative_eq _)
  | ms => exact on_directWord hq _ _
  | msim => rfl

/-- The multiplications with a 32-bit product. -/
theorem MultiplyForm.exec_eq {i : Instr} {acc : Reg} {len : Word} {q : Operand} {s : State}
    (h : MultiplyForm i acc len q) (hq : q.Readable s 1) :
    exec i s = .next (mulToPair acc (q.word s) (s.advance len)) := by
  cases h with
  | mr => rfl
  | mb => exact on_basedWord hq _ _
  | mbx => exact on_baseIndexedWord hq _ _
  | m => exact on_directWord hq _ _
  | mim => rfl

/-- The divisions of a 16-bit dividend. -/
theorem DivideWordForm.exec_eq {i : Instr} {acc : Reg} {len : Word} {q : Operand} {s : State}
    (h : DivideWordForm i acc len q) (hq : q.Readable s 1) :
    exec i s = .next (divWord acc (q.word s) (s.advance len)) := by
  cases h with
  | dvr => rfl
  | disp => rfl
  | disn => exact congrArg (fun w => Host.Outcome.next (divWord _ w (s.advance 1))) (shortNegative_eq _)
  | dv => exact on_directWord hq _ _
  | dvim => rfl

/-- The divisions of a 32-bit dividend by a word. -/
theorem DivideForm.exec_eq {i : Instr} {acc : Reg} {len : Word} {q : Operand} {s : State}
    (h : DivideForm i acc len q) (hq : q.Readable s 1) :
    exec i s = .next (divPairByWord acc (q.word s) (s.advance len)) := by
  cases h with
  | dr => rfl
  | db => exact on_basedWord hq _ _
  | dbx => exact on_baseIndexedWord hq _ _
  | d => exact on_directWord hq _ _
  | dim => rfl

/-- The single precision compares. -/
theorem CompareForm.exec_eq {i : Instr} {acc : Reg} {len : Word} {q : Operand} {s : State}
    (h : CompareForm i acc len q) (hq : q.Readable s 1) :
    exec i s = .next (compareWord acc (q.word s) (s.advance len)) := by
  cases h with
  | cr => rfl
  | cb => exact on_basedWord hq _ _
  | cbx => exact on_baseIndexedWord hq _ _
  | cisp => rfl
  | cisn => exact congrArg (fun w => Host.Outcome.next (compareWord _ w (s.advance 1))) (shortNegative_eq _)
  | c => exact on_directWord hq _ _
  | cim => rfl

/-- The logical instructions. -/
theorem LogicalForm.exec_eq {i : Instr} {op : Word → Word → Word} {acc : Reg} {len : Word} {q : Operand} {s : State}
    (h : LogicalForm i op acc len q) (hq : q.Readable s 1) :
    exec i s = .next (logicalWord op acc (q.word s) (s.advance len)) := by
  cases h with
  | orr => rfl
  | orb => exact on_basedWord hq _ _
  | orbx => exact on_baseIndexedWord hq _ _
  | or => exact on_directWord hq _ _
  | orim => rfl
  | andr => rfl
  | andb => exact on_basedWord hq _ _
  | andx => exact on_baseIndexedWord hq _ _
  | and => exact on_directWord hq _ _
  | andm => rfl
  | xorr => rfl
  | xor => exact on_directWord hq _ _
  | xorm => rfl
  | nr => rfl
  | n => exact on_directWord hq _ _
  | nim => rfl

/-- The byte loads. -/
theorem LoadByteForm.exec_eq {i : Instr} {acc : Reg} {upper : Bool} {q : Operand} {s : State}
    (h : LoadByteForm i acc upper q) (hq : q.Readable s 1) :
    exec i s = .next ((if upper then loadUpperByte else loadLowerByte) acc (q.word s) (s.advance 2)) := by
  cases h with
  | lub => exact on_directWord hq _ _
  | lubi => exact on_indirectWord hq _ _
  | llb => exact on_directWord hq _ _
  | llbi => exact on_indirectWord hq _ _

/-- The double precision loads. -/
theorem LoadPairForm.exec_eq {i : Instr} {acc : Reg} {len : Word} {q : Operand} {s : State}
    (h : LoadPairForm i acc len q) (hq : q.Readable s 2) :
    exec i s = .next (loadPair acc (q.double s) (s.advance len)) := by
  cases h with
  | dlr => rfl
  | dlb => exact on_basedDouble hq _ _
  | dlbx => exact on_baseIndexedDouble hq _ _
  | dl => exact on_directDouble hq _ _
  | dli => exact on_indirectDouble hq _ _

theorem TwoForms.exec_addPair {i : Instr} {acc : Reg} {len : Word} {q : Operand} {s : State}
    (h : TwoForms .dar .da i acc len q) (hq : q.Readable s 2) :
    exec i s = .next (addPair acc (q.double s) (s.advance len)) := by
  cases h with
  | register => rfl
  | direct => exact on_directDouble hq _ _

theorem TwoForms.exec_subPair {i : Instr} {acc : Reg} {len : Word} {q : Operand} {s : State}
    (h : TwoForms .dsr .ds i acc len q) (hq : q.Readable s 2) :
    exec i s = .next (subPair acc (q.double s) (s.advance len)) := by
  cases h with
  | register => rfl
  | direct => exact on_directDouble hq _ _

theorem TwoForms.exec_mulPair {i : Instr} {acc : Reg} {len : Word} {q : Operand} {s : State}
    (h : TwoForms .dmr .dm i acc len q) (hq : q.Readable s 2) :
    exec i s = .next (mulPair acc (q.double s) (s.advance len)) := by
  cases h with
  | register => rfl
  | direct => exact on_directDouble hq _ _

theorem TwoForms.exec_divPair {i : Instr} {acc : Reg} {len : Word} {q : Operand} {s : State}
    (h : TwoForms .ddr .dd i acc len q) (hq : q.Readable s 2) :
    exec i s = .next (divPair acc (q.double s) (s.advance len)) := by
  cases h with
  | register => rfl
  | direct => exact on_directDouble hq _ _

theorem TwoForms.exec_comparePair {i : Instr} {acc : Reg} {len : Word} {q : Operand} {s : State}
    (h : TwoForms .dcr .dc i acc len q) (hq : q.Readable s 2) :
    exec i s = .next (comparePair acc (q.double s) (s.advance len)) := by
  cases h with
  | register => rfl
  | direct => exact on_directDouble hq _ _

theorem TwoForms.exec_compareExtended {i : Instr} {acc : Reg} {len : Word} {q : Operand} {s : State}
    (h : TwoForms .efcr .efc i acc len q) (hq : q.Readable s 3) :
    exec i s = .next (compareExtended acc (q.triple s) (s.advance len)) := by
  cases h with
  | register => rfl
  | direct => exact on_directTriple hq _ _

/-- The floating point arithmetic. -/
theorem FloatForm.exec_eq {i : Instr} {op : Unpacked → Unpacked → FloatResult} {acc : Reg} {len : Word}
    {q : Operand} {s : State} (h : FloatForm i op acc len q) (hq : q.Readable s 2) :
    exec i s = .next (floatWith op acc (q.double s) (s.advance len)) := by
  cases h with
  | add h | subtract h | multiply h | divide h =>
    cases h with
    | register => rfl
    | base => exact on_basedDouble hq _ _
    | baseIndexed => exact on_baseIndexedDouble hq _ _
    | direct => exact on_directDouble hq _ _

/-- The extended floating point arithmetic. -/
theorem ExtendedForm.exec_eq {i : Instr} {op : Unpacked → Unpacked → FloatResult} {acc : Reg} {len : Word}
    {q : Operand} {s : State} (h : ExtendedForm i op acc len q) (hq : q.Readable s 3) :
    exec i s = .next (extendedWith op acc (q.triple s) (s.advance len)) := by
  cases h with
  | add h | subtract h | multiply h | divide h =>
    cases h with
    | register => rfl
    | direct => exact on_directTriple hq _ _

/-- The floating point compares. -/
theorem FourForms.exec_compareFloat {i : Instr} {acc : Reg} {len : Word} {q : Operand} {s : State}
    (h : FourForms .fcr .fcb .fcbx .fc i acc len q) (hq : q.Readable s 2) :
    exec i s = .next (compareFloat acc (q.double s) (s.advance len)) := by
  cases h with
  | register => rfl
  | base => exact on_basedDouble hq _ _
  | baseIndexed => exact on_baseIndexedDouble hq _ _
  | direct => exact on_directDouble hq _ _

/-- The bit tests. -/
theorem TestBitForm.exec_eq {s : State} {i : Instr} {n : Nibble} {len : Word} {q : Operand}
    (h : TestBitForm s i n len q) (hq : q.Readable s 1) :
    exec i s = .next (testBit n (q.word s) (s.advance len)) := by
  cases h with
  | tb => exact on_directWord hq _ _
  | tbi => exact on_indirectWord hq _ _
  | tbr => rfl
  | tvbr => rfl

/-- The instructions that replace a word of memory. -/
theorem ModifyForm.exec_eq {s : State} {i : Instr} {q : Operand} {f : Word → Word} (h : ModifyForm s i q f)
    (hq : q.Readable s 1) :
    ∃ da, q.address s = some da ∧ q.word s = s.wordAt da ∧
      exec i s = .next ((s.advance 2).store da [f (s.wordAt da)]) := by
  cases h with
  | sb | rb | srm | stub | stlb => exact ⟨_, rfl, rfl, on_directCell hq _ _⟩
  | sbi | rbi | subi | slbi => exact ⟨_, rfl, rfl, on_indirectCell hq _ _⟩

/-- The stores of registers. -/
theorem StoreForm.exec_eq {i : Instr} {len : Word} {q : Operand} {rs : List Reg} {s : State}
    (h : StoreForm i len q rs) (hq : q.Reached s) :
    ∃ da, q.address s = some da ∧ exec i s = .next ((s.advance len).store da (rs.map s.reg)) := by
  cases h with
  | stb | stbx | st | dstb | dstx | dst | efst => exact ⟨_, rfl, rfl⟩
  | sti ra => exact ⟨_, rfl, on_indirect hq 2 fun da n => n.store da [n.reg ra]⟩
  | dsti ra => exact ⟨_, rfl, on_indirect hq 2 fun da n => n.store da [n.reg ra, n.reg (ra + 1)]⟩

/-- The stores of a constant. -/
theorem StoreConstantForm.exec_eq {i : Instr} {n : Nibble} {q : Operand} {s : State} (h : StoreConstantForm i n q)
    (hq : q.Reached s) :
    ∃ da, q.address s = some da ∧ exec i s = .next ((s.advance 2).store da [n.setWidth 16]) := by
  cases h with
  | stc => exact ⟨_, rfl, rfl⟩
  | stci => exact ⟨_, rfl, on_indirect hq 2 fun da m => m.store da [n.setWidth 16]⟩

end Sys2Proof.Claims
end

