-- ==== Sys2Proof/Laws/Interrupts.lean ====
section
/-! SUPPORT. What loading a status word does, what the interrupt sequence does when its references are allowed
(60_exceptions.md R608, R624), and which of the three things a step does (R628). -/

namespace Sys2Proof.Claims

open Sys2Proof.Machine

/-! ### The status word load -/

/-- A status word load changes the status word, the fault register and the pending interrupts only. -/
theorem State.loadSw_eq (s : State) (w : Word) :
    s.loadSw w = { s with sw := (s.loadSw w).sw, ft := (s.loadSw w).ft, pir := (s.loadSw w).pir } := by
  unfold State.loadSw; split <;> rfl

/-- What a status word load does to these three (60_exceptions.md R608). -/
theorem loadsStatus (s : State) (w : Word) : LoadsStatus s (s.loadSw w) w s.pir := by
  unfold State.loadSw
  by_cases h : s.cfg.groups ≤ (w.extractLsb' 0 4).toNat
  · rw [if_pos h]
    exact ⟨by rw [if_neg (by omega)], by rw [if_neg (by omega)]; rfl, by rw [if_neg (by omega)]; rfl⟩
  · rw [if_neg h]
    exact ⟨by rw [if_pos (by omega)], by rw [if_pos (by omega)], by rw [if_pos (by omega)]⟩

/-- The address state after a status word load. -/
theorem State.as_loadSw (s : State) (w : Word) : (s.loadSw w).as = linkageGroup s w := by
  unfold State.loadSw linkageGroup
  by_cases h : s.cfg.groups ≤ (w.extractLsb' 0 4).toNat
  · rw [if_pos h, if_neg (by omega)]
    show BitVec.extractLsb' 0 4 (w.extractLsb' 4 12 ++ 0#4) = 0#4
    apply BitVec.eq_of_getLsbD_eq
    intro i hi
    rw [BitVec.getLsbD_extractLsb', BitVec.getLsbD_append]; simp [hi]
  · rw [if_neg h, if_pos (by omega)]; rfl

/-! ### The interrupt sequence -/

/-- The freeze flags after the interrupt sequence (60_exceptions.md R616). -/
theorem State.freeze_eq (s : State) (n : Nat) :
    s.freeze n = { s with io := { s.io with frz1 := s.io.frz1 || (s.cfg.hasIoic && n == 12),
                                            frz2 := s.io.frz2 || (s.cfg.hasIoic && n == 14) } } := by
  unfold State.freeze
  cases h : s.cfg.hasIoic <;> simp

/-- What the interrupt sequence does, when its eight references are all allowed (60_exceptions.md R624). -/
theorem sequence_of_enterable (s : State) (n : Nat) (entry : Nibble) (h : Enterable s n entry) :
    ∃ t, s.interruptSequence n entry = (t, none) ∧ Entered s t n entry s.ic := by
  let s0 : State := { s with pir := s.pir &&& ~~~bitMask n, pihold := s.pihold &&& ~~~bitMask n }
  have hq : s0.awaitBus = s0 := State.awaitBus_of_quiet (show s0.bus = [] from h.quiet)
  have rv (la : Word) (hl : s.VectorReadable la) : s0.readVector la = (.ok (s.vectorWord la), s0) := by
    have hr : s0.readWord ⟨la, .operand, 0#4⟩ 0#4 = .ok (s.vectorWord la) := State.readWord_of_allowed (s := s0) hl
    show (s0.awaitBus.readWord _ _, s0.awaitBus) = _
    rw [hq, hr]
  have hserv : s0.readService n entry =
      (.ok (⟨(vector s n entry).mask, (vector s n entry).status, (vector s n entry).counter⟩,
        (vector s n entry).linkage), s0) := by
    unfold State.readService
    rw [rv _ h.service]
    show (s0.readVector (vector s n entry).service).andThen _ = _
    rw [rv _ h.mask]
    show (s0.readVector ((vector s n entry).service + 1)).andThen _ = _
    rw [rv _ h.status]
    show (s0.readVector ((vector s n entry).service + 2 + entry.setWidth 16)).andThen _ = _
    rw [rv _ h.counter]
    show (s0.readVector _).andThen _ = _
    rw [rv _ h.linkage]; rfl
  generalize hV : vector s n entry = V at hserv
  have hl := loadsStatus ({ s0 with mkr := V.mask }) V.status
  have he := State.loadSw_eq ({ s0 with mkr := V.mask }) V.status
  have ha := State.as_loadSw ({ s0 with mkr := V.mask }) V.status
  generalize hL : ({ s0 with mkr := V.mask } : State).loadSw V.status = L at hl he ha
  let s1 : State := { L with ic := V.counter }
  have hs1 : s0.loadContext ⟨V.mask, V.status, V.counter⟩ = s1 := by
    show { ({ s0 with mkr := V.mask } : State).loadSw V.status with ic := V.counter } = s1
    rw [hL]
  have has1 : s1.as = linkageGroup s V.status := ha
  have hs1e : s1 = { s with pihold := s.pihold &&& ~~~bitMask n, mkr := V.mask, sw := L.sw, ft := L.ft, pir := L.pir,
                            ic := V.counter } := by
    show ({ L with ic := V.counter } : State) = _
    rw [he]
  have hw : ∀ p ∈ consecutive V.linkage [s.mkr, s.sw, s.ic],
      s1.writeFault ⟨p.1, .operand, s1.as⟩ 0#4 = none := by
    have hst := h.store
    rw [hV, ← has1] at hst
    have wf (la : Word) : s1.writeFault ⟨la, .operand, s1.as⟩ 0#4 = s.writeFault ⟨la, .operand, s1.as⟩ 0#4 := by
      generalize s1.as = g; rw [hs1e]; rfl
    rw [consecutive_eq]
    intro p hp
    rw [wf]
    simp only [List.zipIdx_cons, List.zipIdx_nil, List.map_cons, List.map_nil, List.mem_cons, List.not_mem_nil,
      or_false] at hp
    rcases hp with rfl | rfl | rfl
    · exact hst 0 (by omega)
    · exact hst 1 (by omega)
    · exact hst 2 (by omega)
  have hb1 : s1.bus = [] := by rw [hs1e]; exact h.quiet
  have hWA := State.writeAll_of_allowed hb1 hw
  have hls : (consecutive V.linkage [s.mkr, s.sw, s.ic]).map (fun p => (s1.physical ⟨p.1, .operand, s1.as⟩, p.2)) =
      linkageStores s n entry s.ic := by
    unfold linkageStores
    rw [hV, ← has1]
    generalize s1.as = g
    rw [hs1e]
    have e2 : V.linkage + 1 + 1 = V.linkage + 2 := by rw [BitVec.add_assoc]; rfl
    have e0 : V.linkage + 0 = V.linkage := BitVec.add_zero _
    simp only [consecutive, List.map_cons, List.map_nil, e2, e0]
    rfl
  rw [hls] at hWA
  have hT := State.storeAll_eq s1 (linkageStores s n entry s.ic)
  have hb := State.byte_storeAll s1 (linkageStores s n entry s.ic)
  have hp := State.mem_badParity_storeAll s1 (linkageStores s n entry s.ic)
  generalize s1.storeAll (linkageStores s n entry s.ic) = T at hWA hT hb hp
  have hfin : s.interruptSequence n entry = (T.disable.freeze n, none) := by
    show (match s0.readService n entry with
      | (.error a, t) => (t, some a)
      | (.ok (c, lp), t) =>
        let s1 := t.loadContext c
        match s1.writeAll s1.as 0#4 (consecutive lp [s.mkr, s.sw, s.ic]) with
        | (s2, none) => (s2.disable.freeze n, none)
        | (s2, some a) => (s2.disable, some a)) = _
    rw [hserv]
    show (match (s0.loadContext _).writeAll (s0.loadContext _).as 0#4
            (consecutive V.linkage [s.mkr, s.sw, s.ic]) with
        | (s2, none) => (s2.disable.freeze n, none)
        | (s2, some a) => (s2.disable, some a)) = _
    rw [hs1, hWA]
  refine ⟨_, hfin, ?_⟩
  rw [State.freeze_eq]
  refine ⟨?_, ⟨?_, ?_, ?_⟩, ?_, ⟨rfl, rfl⟩, ?_, ?_, ?_, ?_, ?_⟩
  · rw [hV, hT, hs1e]; rfl
  · rw [hV, hT, hs1e]; exact hl.status
  · rw [hV, hT, hs1e]; exact hl.fault
  · rw [hV, hT, hs1e]; exact hl.request
  · rw [hV, hT, hs1e]; rfl
  · rw [hT, hs1e]; rfl
  · rw [hT, hs1e]; rfl
  · intro a; refine (show _ = Memory.byte T.mem a from rfl).trans ?_; rw [hb, hs1e]
  · intro pa; refine (show _ ↔ pa ∈ T.badParity from Iff.rfl).trans ?_; rw [hp, hs1e]
  · rw [hT, hs1e]; rfl

/-- What taking an interrupt at a boundary does, when the references of its sequence are all allowed
(60_exceptions.md R624, R628). -/
theorem entered_of_enterable (s : State) (n : Nat) (entry : Nibble) (h : Enterable s n entry) :
    Entered s (s.takeInterrupt n entry) n entry s.ic := by
  obtain ⟨t, ht, he⟩ := sequence_of_enterable s n entry h
  unfold State.takeInterrupt
  rwa [ht]

/-- What BEX does, when the references of its sequence are all allowed (43_jump_branch.md R348). -/
theorem bex_of_enterable (s : State) (n : Nibble) (h : Enterable (s.advance 1) 5 n) :
    ∃ t, exec (.bex n) s = .next t.holdBoundary ∧ Entered (s.advance 1) t 5 n (s.ic + 1) := by
  obtain ⟨t, ht, he⟩ := sequence_of_enterable (s.advance 1) 5 n h
  refine ⟨t, ?_, he⟩
  show Host.Outcome.next (afterWrites ((s.advance 1).interruptSequence 5 n) State.holdBoundary) = _
  rw [ht]; rfl

/-! ### A step -/

/-- No interrupt is due where a BEX holds the boundary, or where none is recognised (60_exceptions.md R628,
43_jump_branch.md R348). -/
theorem dueInterrupt_eq_none {s : State} (h : s.atExecutive = true ∨ s.recognised = none) : s.dueInterrupt = none := by
  unfold State.dueInterrupt
  rcases h with h | h <;> simp [h]

/-- At any other boundary the interrupt due is the one recognised (60_exceptions.md R628). -/
theorem dueInterrupt_eq_recognised {s : State} (h : s.atExecutive = false) : s.dueInterrupt = s.recognised := by
  unfold State.dueInterrupt; simp [h]

/-- A step of a halted processor applies the events and nothing more (10_state.md R71). -/
theorem step_of_halted {s : State} (h : s.applyEvents.halted = true) : step s = .next s.applyEvents := by
  unfold step; simp [h]

/-- A step that recognises an interrupt takes it, but at the boundary after a BEX (60_exceptions.md R628). -/
theorem step_of_recognised {s : State} {n : Nat} (h : s.applyEvents.halted = false)
    (hb : s.applyEvents.atExecutive = false) (hr : s.applyEvents.recognised = some n) :
    step s = .next (s.applyEvents.takeInterrupt n 0#4) := by
  unfold step; simp [h, dueInterrupt_eq_recognised hb, hr]

/-- Any other step is an instruction step (60_exceptions.md R628). -/
theorem step_of_running {s : State} (h : s.applyEvents.halted = false)
    (hr : s.applyEvents.atExecutive = true ∨ s.applyEvents.recognised = none) :
    step s = instructionStep s.applyEvents.beginInstruction := by
  unfold step; simp [h, dueInterrupt_eq_none hr]

end Sys2Proof.Claims
end

