-- ==== Sys2Proof/Laws/PerInstr.lean ====
section
/-! SUPPORT. The per-instruction family EncodedLength: the words of every instruction are a first word and, exactly
where that first word is the first of two (30_encoding.md R172), a second one. One lemma per constructor of Instr. -/

/-- The words of an instruction are a first word and as many further words as the first announces. -/
def Sys2Proof.Laws.EncodedLength.Statement (i : Sys2Proof.Instr) : Prop :=
  ∃ w ws, Sys2Proof.encode i = w :: ws ∧ ws.length = if Sys2Proof.isLong w then 1 else 0

namespace Sys2Proof.Laws.EncodedLength

open Sys2Proof

/-- A first word that announces a second one, with it. -/
theorem of_long {i : Instr} {op : Byte} {a b : Nibble} {w : Word} (h : encode i = [wordOf op a b, w])
    (hop : longOps.contains op.toNat = true) : Statement i :=
  ⟨_, _, h, by rw [isLong_wordOf, hop]; rfl⟩

/-- A register-to-register word, alone. -/
theorem of_short {i : Instr} {op : Byte} {a b : Nibble} (h : encode i = [wordOf op a b])
    (hop : longOps.contains op.toNat = false) : Statement i :=
  ⟨_, _, h, by rw [isLong_wordOf, hop]; rfl⟩

/-- An IC relative word, alone. -/
theorem of_relative {i : Instr} {op d : Byte} (h : encode i = [wordOfByte op d])
    (hop : longOps.contains op.toNat = false) : Statement i :=
  ⟨_, _, h, by rw [isLong_wordOfByte, hop]; rfl⟩

/-- A base relative word, alone. -/
theorem of_base {i : Instr} {op : BitVec 6} {br : Reg} {du : Byte} (h : encode i = [wordOfBase op br du])
    (hop : op ≤ 17#6) : Statement i :=
  ⟨_, _, h, by rw [isLong_wordOfBase _ _ _ hop]; rfl⟩

/-- A base relative indexed word, alone. -/
theorem of_baseIndexed {i : Instr} {ext : Nibble} {br rx : Reg} (h : encode i = [wordOfBaseIndexed ext br rx]) :
    Statement i :=
  ⟨_, _, h, by rw [isLong_wordOfBaseIndexed]; rfl⟩

theorem lb (br : Reg) (du : Byte) : Statement (.lb br du) := of_base rfl (by decide)
theorem dlb (br : Reg) (du : Byte) : Statement (.dlb br du) := of_base rfl (by decide)
theorem stb (br : Reg) (du : Byte) : Statement (.stb br du) := of_base rfl (by decide)
theorem dstb (br : Reg) (du : Byte) : Statement (.dstb br du) := of_base rfl (by decide)
theorem ab (br : Reg) (du : Byte) : Statement (.ab br du) := of_base rfl (by decide)
theorem sbb (br : Reg) (du : Byte) : Statement (.sbb br du) := of_base rfl (by decide)
theorem mb (br : Reg) (du : Byte) : Statement (.mb br du) := of_base rfl (by decide)
theorem db (br : Reg) (du : Byte) : Statement (.db br du) := of_base rfl (by decide)
theorem fab (br : Reg) (du : Byte) : Statement (.fab br du) := of_base rfl (by decide)
theorem fsb (br : Reg) (du : Byte) : Statement (.fsb br du) := of_base rfl (by decide)
theorem fmb (br : Reg) (du : Byte) : Statement (.fmb br du) := of_base rfl (by decide)
theorem fdb (br : Reg) (du : Byte) : Statement (.fdb br du) := of_base rfl (by decide)
theorem orb (br : Reg) (du : Byte) : Statement (.orb br du) := of_base rfl (by decide)
theorem andb (br : Reg) (du : Byte) : Statement (.andb br du) := of_base rfl (by decide)
theorem cb (br : Reg) (du : Byte) : Statement (.cb br du) := of_base rfl (by decide)
theorem fcb (br : Reg) (du : Byte) : Statement (.fcb br du) := of_base rfl (by decide)
theorem lbx (br : Reg) (rx : Reg) : Statement (.lbx br rx) := of_baseIndexed rfl
theorem dlbx (br : Reg) (rx : Reg) : Statement (.dlbx br rx) := of_baseIndexed rfl
theorem stbx (br : Reg) (rx : Reg) : Statement (.stbx br rx) := of_baseIndexed rfl
theorem dstx (br : Reg) (rx : Reg) : Statement (.dstx br rx) := of_baseIndexed rfl
theorem abx (br : Reg) (rx : Reg) : Statement (.abx br rx) := of_baseIndexed rfl
theorem sbbx (br : Reg) (rx : Reg) : Statement (.sbbx br rx) := of_baseIndexed rfl
theorem mbx (br : Reg) (rx : Reg) : Statement (.mbx br rx) := of_baseIndexed rfl
theorem dbx (br : Reg) (rx : Reg) : Statement (.dbx br rx) := of_baseIndexed rfl
theorem fabx (br : Reg) (rx : Reg) : Statement (.fabx br rx) := of_baseIndexed rfl
theorem fsbx (br : Reg) (rx : Reg) : Statement (.fsbx br rx) := of_baseIndexed rfl
theorem fmbx (br : Reg) (rx : Reg) : Statement (.fmbx br rx) := of_baseIndexed rfl
theorem fdbx (br : Reg) (rx : Reg) : Statement (.fdbx br rx) := of_baseIndexed rfl
theorem cbx (br : Reg) (rx : Reg) : Statement (.cbx br rx) := of_baseIndexed rfl
theorem fcbx (br : Reg) (rx : Reg) : Statement (.fcbx br rx) := of_baseIndexed rfl
theorem andx (br : Reg) (rx : Reg) : Statement (.andx br rx) := of_baseIndexed rfl
theorem orbx (br : Reg) (rx : Reg) : Statement (.orbx br rx) := of_baseIndexed rfl
theorem xio (ra : Reg) (addr : Word) (rx : Reg) : Statement (.xio ra addr rx) := of_long rfl rfl
theorem vio (ra : Reg) (addr : Word) (rx : Reg) : Statement (.vio ra addr rx) := of_long rfl rfl
theorem aim (ra : Reg) (data : Word) : Statement (.aim ra data) := of_long rfl rfl
theorem sim (ra : Reg) (data : Word) : Statement (.sim ra data) := of_long rfl rfl
theorem mim (ra : Reg) (data : Word) : Statement (.mim ra data) := of_long rfl rfl
theorem msim (ra : Reg) (data : Word) : Statement (.msim ra data) := of_long rfl rfl
theorem dim (ra : Reg) (data : Word) : Statement (.dim ra data) := of_long rfl rfl
theorem dvim (ra : Reg) (data : Word) : Statement (.dvim ra data) := of_long rfl rfl
theorem andm (ra : Reg) (data : Word) : Statement (.andm ra data) := of_long rfl rfl
theorem orim (ra : Reg) (data : Word) : Statement (.orim ra data) := of_long rfl rfl
theorem xorm (ra : Reg) (data : Word) : Statement (.xorm ra data) := of_long rfl rfl
theorem cim (ra : Reg) (data : Word) : Statement (.cim ra data) := of_long rfl rfl
theorem nim (ra : Reg) (data : Word) : Statement (.nim ra data) := of_long rfl rfl
theorem sb (n : Nibble) (addr : Word) (rx : Reg) : Statement (.sb n addr rx) := of_long rfl rfl
theorem sbr (n : Nibble) (rb : Reg) : Statement (.sbr n rb) := of_short rfl rfl
theorem sbi (n : Nibble) (addr : Word) (rx : Reg) : Statement (.sbi n addr rx) := of_long rfl rfl
theorem rb (n : Nibble) (addr : Word) (rx : Reg) : Statement (.rb n addr rx) := of_long rfl rfl
theorem rbr (n : Nibble) (rb : Reg) : Statement (.rbr n rb) := of_short rfl rfl
theorem rbi (n : Nibble) (addr : Word) (rx : Reg) : Statement (.rbi n addr rx) := of_long rfl rfl
theorem tb (n : Nibble) (addr : Word) (rx : Reg) : Statement (.tb n addr rx) := of_long rfl rfl
theorem tbr (n : Nibble) (rb : Reg) : Statement (.tbr n rb) := of_short rfl rfl
theorem tbi (n : Nibble) (addr : Word) (rx : Reg) : Statement (.tbi n addr rx) := of_long rfl rfl
theorem tsb (n : Nibble) (addr : Word) (rx : Reg) : Statement (.tsb n addr rx) := of_long rfl rfl
theorem svbr (ra : Reg) (rb : Reg) : Statement (.svbr ra rb) := of_short rfl rfl
theorem rvbr (ra : Reg) (rb : Reg) : Statement (.rvbr ra rb) := of_short rfl rfl
theorem tvbr (ra : Reg) (rb : Reg) : Statement (.tvbr ra rb) := of_short rfl rfl
theorem sll (rb : Reg) (n : Nat) : Statement (.sll rb n) := of_short rfl rfl
theorem srl (rb : Reg) (n : Nat) : Statement (.srl rb n) := of_short rfl rfl
theorem sra (rb : Reg) (n : Nat) : Statement (.sra rb n) := of_short rfl rfl
theorem slc (rb : Reg) (n : Nat) : Statement (.slc rb n) := of_short rfl rfl
theorem dsll (rb : Reg) (n : Nat) : Statement (.dsll rb n) := of_short rfl rfl
theorem dsrl (rb : Reg) (n : Nat) : Statement (.dsrl rb n) := of_short rfl rfl
theorem dsra (rb : Reg) (n : Nat) : Statement (.dsra rb n) := of_short rfl rfl
theorem dslc (rb : Reg) (n : Nat) : Statement (.dslc rb n) := of_short rfl rfl
theorem slr (ra : Reg) (rb : Reg) : Statement (.slr ra rb) := of_short rfl rfl
theorem sar (ra : Reg) (rb : Reg) : Statement (.sar ra rb) := of_short rfl rfl
theorem scr (ra : Reg) (rb : Reg) : Statement (.scr ra rb) := of_short rfl rfl
theorem dslr (ra : Reg) (rb : Reg) : Statement (.dslr ra rb) := of_short rfl rfl
theorem dsar (ra : Reg) (rb : Reg) : Statement (.dsar ra rb) := of_short rfl rfl
theorem dscr (ra : Reg) (rb : Reg) : Statement (.dscr ra rb) := of_short rfl rfl
theorem jc (n : Nibble) (addr : Word) (rx : Reg) : Statement (.jc n addr rx) := of_long rfl rfl
theorem jci (n : Nibble) (addr : Word) (rx : Reg) : Statement (.jci n addr rx) := of_long rfl rfl
theorem js (ra : Reg) (addr : Word) (rx : Reg) : Statement (.js ra addr rx) := of_long rfl rfl
theorem soj (ra : Reg) (addr : Word) (rx : Reg) : Statement (.soj ra addr rx) := of_long rfl rfl
theorem br (d : Byte) : Statement (.br d) := of_relative rfl rfl
theorem bez (d : Byte) : Statement (.bez d) := of_relative rfl rfl
theorem blt (d : Byte) : Statement (.blt d) := of_relative rfl rfl
theorem bex (n : Nibble) : Statement (.bex n) := of_short rfl rfl
theorem ble (d : Byte) : Statement (.ble d) := of_relative rfl rfl
theorem bgt (d : Byte) : Statement (.bgt d) := of_relative rfl rfl
theorem bnz (d : Byte) : Statement (.bnz d) := of_relative rfl rfl
theorem bge (d : Byte) : Statement (.bge d) := of_relative rfl rfl
theorem lsti (addr : Word) (rx : Reg) : Statement (.lsti addr rx) := of_long rfl rfl
theorem lst (addr : Word) (rx : Reg) : Statement (.lst addr rx) := of_long rfl rfl
theorem sjs (ra : Reg) (addr : Word) (rx : Reg) : Statement (.sjs ra addr rx) := of_long rfl rfl
theorem urs (ra : Reg) : Statement (.urs ra) := of_short rfl rfl
theorem l (ra : Reg) (addr : Word) (rx : Reg) : Statement (.l ra addr rx) := of_long rfl rfl
theorem lr (ra : Reg) (rb : Reg) : Statement (.lr ra rb) := of_short rfl rfl
theorem lisp (ra : Reg) (n : Nat) : Statement (.lisp ra n) := of_short rfl rfl
theorem lisn (ra : Reg) (n : Nat) : Statement (.lisn ra n) := of_short rfl rfl
theorem li (ra : Reg) (addr : Word) (rx : Reg) : Statement (.li ra addr rx) := of_long rfl rfl
theorem lim (ra : Reg) (addr : Word) (rx : Reg) : Statement (.lim ra addr rx) := of_long rfl rfl
theorem dl (ra : Reg) (addr : Word) (rx : Reg) : Statement (.dl ra addr rx) := of_long rfl rfl
theorem dlr (ra : Reg) (rb : Reg) : Statement (.dlr ra rb) := of_short rfl rfl
theorem dli (ra : Reg) (addr : Word) (rx : Reg) : Statement (.dli ra addr rx) := of_long rfl rfl
theorem lm (n : Nibble) (addr : Word) (rx : Reg) : Statement (.lm n addr rx) := of_long rfl rfl
theorem efl (ra : Reg) (addr : Word) (rx : Reg) : Statement (.efl ra addr rx) := of_long rfl rfl
theorem lub (ra : Reg) (addr : Word) (rx : Reg) : Statement (.lub ra addr rx) := of_long rfl rfl
theorem llb (ra : Reg) (addr : Word) (rx : Reg) : Statement (.llb ra addr rx) := of_long rfl rfl
theorem lubi (ra : Reg) (addr : Word) (rx : Reg) : Statement (.lubi ra addr rx) := of_long rfl rfl
theorem llbi (ra : Reg) (addr : Word) (rx : Reg) : Statement (.llbi ra addr rx) := of_long rfl rfl
theorem popm (ra : Reg) (rb : Reg) : Statement (.popm ra rb) := of_short rfl rfl
theorem st (ra : Reg) (addr : Word) (rx : Reg) : Statement (.st ra addr rx) := of_long rfl rfl
theorem stc (n : Nibble) (addr : Word) (rx : Reg) : Statement (.stc n addr rx) := of_long rfl rfl
theorem stci (n : Nibble) (addr : Word) (rx : Reg) : Statement (.stci n addr rx) := of_long rfl rfl
theorem mov (ra : Reg) (rb : Reg) : Statement (.mov ra rb) := of_short rfl rfl
theorem sti (ra : Reg) (addr : Word) (rx : Reg) : Statement (.sti ra addr rx) := of_long rfl rfl
theorem dst (ra : Reg) (addr : Word) (rx : Reg) : Statement (.dst ra addr rx) := of_long rfl rfl
theorem srm (ra : Reg) (addr : Word) (rx : Reg) : Statement (.srm ra addr rx) := of_long rfl rfl
theorem dsti (ra : Reg) (addr : Word) (rx : Reg) : Statement (.dsti ra addr rx) := of_long rfl rfl
theorem stm (n : Nibble) (addr : Word) (rx : Reg) : Statement (.stm n addr rx) := of_long rfl rfl
theorem efst (ra : Reg) (addr : Word) (rx : Reg) : Statement (.efst ra addr rx) := of_long rfl rfl
theorem stub (ra : Reg) (addr : Word) (rx : Reg) : Statement (.stub ra addr rx) := of_long rfl rfl
theorem stlb (ra : Reg) (addr : Word) (rx : Reg) : Statement (.stlb ra addr rx) := of_long rfl rfl
theorem subi (ra : Reg) (addr : Word) (rx : Reg) : Statement (.subi ra addr rx) := of_long rfl rfl
theorem slbi (ra : Reg) (addr : Word) (rx : Reg) : Statement (.slbi ra addr rx) := of_long rfl rfl
theorem pshm (ra : Reg) (rb : Reg) : Statement (.pshm ra rb) := of_short rfl rfl
theorem a (ra : Reg) (addr : Word) (rx : Reg) : Statement (.a ra addr rx) := of_long rfl rfl
theorem ar (ra : Reg) (rb : Reg) : Statement (.ar ra rb) := of_short rfl rfl
theorem aisp (ra : Reg) (n : Nat) : Statement (.aisp ra n) := of_short rfl rfl
theorem incm (n : Nat) (addr : Word) (rx : Reg) : Statement (.incm n addr rx) := of_long rfl rfl
theorem abs (ra : Reg) (rb : Reg) : Statement (.abs ra rb) := of_short rfl rfl
theorem dabs (ra : Reg) (rb : Reg) : Statement (.dabs ra rb) := of_short rfl rfl
theorem da (ra : Reg) (addr : Word) (rx : Reg) : Statement (.da ra addr rx) := of_long rfl rfl
theorem dar (ra : Reg) (rb : Reg) : Statement (.dar ra rb) := of_short rfl rfl
theorem fa (ra : Reg) (addr : Word) (rx : Reg) : Statement (.fa ra addr rx) := of_long rfl rfl
theorem far (ra : Reg) (rb : Reg) : Statement (.far ra rb) := of_short rfl rfl
theorem efa (ra : Reg) (addr : Word) (rx : Reg) : Statement (.efa ra addr rx) := of_long rfl rfl
theorem efar (ra : Reg) (rb : Reg) : Statement (.efar ra rb) := of_short rfl rfl
theorem fabs (ra : Reg) (rb : Reg) : Statement (.fabs ra rb) := of_short rfl rfl
theorem s (ra : Reg) (addr : Word) (rx : Reg) : Statement (.s ra addr rx) := of_long rfl rfl
theorem sr (ra : Reg) (rb : Reg) : Statement (.sr ra rb) := of_short rfl rfl
theorem sisp (ra : Reg) (n : Nat) : Statement (.sisp ra n) := of_short rfl rfl
theorem decm (n : Nat) (addr : Word) (rx : Reg) : Statement (.decm n addr rx) := of_long rfl rfl
theorem neg (ra : Reg) (rb : Reg) : Statement (.neg ra rb) := of_short rfl rfl
theorem dneg (ra : Reg) (rb : Reg) : Statement (.dneg ra rb) := of_short rfl rfl
theorem ds (ra : Reg) (addr : Word) (rx : Reg) : Statement (.ds ra addr rx) := of_long rfl rfl
theorem dsr (ra : Reg) (rb : Reg) : Statement (.dsr ra rb) := of_short rfl rfl
theorem fs (ra : Reg) (addr : Word) (rx : Reg) : Statement (.fs ra addr rx) := of_long rfl rfl
theorem fsr (ra : Reg) (rb : Reg) : Statement (.fsr ra rb) := of_short rfl rfl
theorem efs (ra : Reg) (addr : Word) (rx : Reg) : Statement (.efs ra addr rx) := of_long rfl rfl
theorem efsr (ra : Reg) (rb : Reg) : Statement (.efsr ra rb) := of_short rfl rfl
theorem fneg (ra : Reg) (rb : Reg) : Statement (.fneg ra rb) := of_short rfl rfl
theorem ms (ra : Reg) (addr : Word) (rx : Reg) : Statement (.ms ra addr rx) := of_long rfl rfl
theorem msr (ra : Reg) (rb : Reg) : Statement (.msr ra rb) := of_short rfl rfl
theorem misp (ra : Reg) (n : Nat) : Statement (.misp ra n) := of_short rfl rfl
theorem misn (ra : Reg) (n : Nat) : Statement (.misn ra n) := of_short rfl rfl
theorem m (ra : Reg) (addr : Word) (rx : Reg) : Statement (.m ra addr rx) := of_long rfl rfl
theorem mr (ra : Reg) (rb : Reg) : Statement (.mr ra rb) := of_short rfl rfl
theorem dm (ra : Reg) (addr : Word) (rx : Reg) : Statement (.dm ra addr rx) := of_long rfl rfl
theorem dmr (ra : Reg) (rb : Reg) : Statement (.dmr ra rb) := of_short rfl rfl
theorem fm (ra : Reg) (addr : Word) (rx : Reg) : Statement (.fm ra addr rx) := of_long rfl rfl
theorem fmr (ra : Reg) (rb : Reg) : Statement (.fmr ra rb) := of_short rfl rfl
theorem efm (ra : Reg) (addr : Word) (rx : Reg) : Statement (.efm ra addr rx) := of_long rfl rfl
theorem efmr (ra : Reg) (rb : Reg) : Statement (.efmr ra rb) := of_short rfl rfl
theorem dv (ra : Reg) (addr : Word) (rx : Reg) : Statement (.dv ra addr rx) := of_long rfl rfl
theorem dvr (ra : Reg) (rb : Reg) : Statement (.dvr ra rb) := of_short rfl rfl
theorem disp (ra : Reg) (n : Nat) : Statement (.disp ra n) := of_short rfl rfl
theorem disn (ra : Reg) (n : Nat) : Statement (.disn ra n) := of_short rfl rfl
theorem d (ra : Reg) (addr : Word) (rx : Reg) : Statement (.d ra addr rx) := of_long rfl rfl
theorem dr (ra : Reg) (rb : Reg) : Statement (.dr ra rb) := of_short rfl rfl
theorem dd (ra : Reg) (addr : Word) (rx : Reg) : Statement (.dd ra addr rx) := of_long rfl rfl
theorem ddr (ra : Reg) (rb : Reg) : Statement (.ddr ra rb) := of_short rfl rfl
theorem fd (ra : Reg) (addr : Word) (rx : Reg) : Statement (.fd ra addr rx) := of_long rfl rfl
theorem fdr (ra : Reg) (rb : Reg) : Statement (.fdr ra rb) := of_short rfl rfl
theorem efd (ra : Reg) (addr : Word) (rx : Reg) : Statement (.efd ra addr rx) := of_long rfl rfl
theorem efdr (ra : Reg) (rb : Reg) : Statement (.efdr ra rb) := of_short rfl rfl
theorem or (ra : Reg) (addr : Word) (rx : Reg) : Statement (.or ra addr rx) := of_long rfl rfl
theorem orr (ra : Reg) (rb : Reg) : Statement (.orr ra rb) := of_short rfl rfl
theorem and (ra : Reg) (addr : Word) (rx : Reg) : Statement (.and ra addr rx) := of_long rfl rfl
theorem andr (ra : Reg) (rb : Reg) : Statement (.andr ra rb) := of_short rfl rfl
theorem xor (ra : Reg) (addr : Word) (rx : Reg) : Statement (.xor ra addr rx) := of_long rfl rfl
theorem xorr (ra : Reg) (rb : Reg) : Statement (.xorr ra rb) := of_short rfl rfl
theorem n (ra : Reg) (addr : Word) (rx : Reg) : Statement (.n ra addr rx) := of_long rfl rfl
theorem nr (ra : Reg) (rb : Reg) : Statement (.nr ra rb) := of_short rfl rfl
theorem fix (ra : Reg) (rb : Reg) : Statement (.fix ra rb) := of_short rfl rfl
theorem flt (ra : Reg) (rb : Reg) : Statement (.flt ra rb) := of_short rfl rfl
theorem efix (ra : Reg) (rb : Reg) : Statement (.efix ra rb) := of_short rfl rfl
theorem eflt (ra : Reg) (rb : Reg) : Statement (.eflt ra rb) := of_short rfl rfl
theorem xbr (ra : Reg) : Statement (.xbr ra) := of_short rfl rfl
theorem xwr (ra : Reg) (rb : Reg) : Statement (.xwr ra rb) := of_short rfl rfl
theorem c (ra : Reg) (addr : Word) (rx : Reg) : Statement (.c ra addr rx) := of_long rfl rfl
theorem cr (ra : Reg) (rb : Reg) : Statement (.cr ra rb) := of_short rfl rfl
theorem cisp (ra : Reg) (n : Nat) : Statement (.cisp ra n) := of_short rfl rfl
theorem cisn (ra : Reg) (n : Nat) : Statement (.cisn ra n) := of_short rfl rfl
theorem cbl (ra : Reg) (addr : Word) (rx : Reg) : Statement (.cbl ra addr rx) := of_long rfl rfl
theorem dc (ra : Reg) (addr : Word) (rx : Reg) : Statement (.dc ra addr rx) := of_long rfl rfl
theorem dcr (ra : Reg) (rb : Reg) : Statement (.dcr ra rb) := of_short rfl rfl
theorem fc (ra : Reg) (addr : Word) (rx : Reg) : Statement (.fc ra addr rx) := of_long rfl rfl
theorem fcr (ra : Reg) (rb : Reg) : Statement (.fcr ra rb) := of_short rfl rfl
theorem efc (ra : Reg) (addr : Word) (rx : Reg) : Statement (.efc ra addr rx) := of_long rfl rfl
theorem efcr (ra : Reg) (rb : Reg) : Statement (.efcr ra rb) := of_short rfl rfl
theorem nop : Statement .nop := ⟨_, _, rfl, rfl⟩
theorem bpt : Statement .bpt := ⟨_, _, rfl, rfl⟩

end Sys2Proof.Laws.EncodedLength
end

