-- ==== Sys2Proof/Tests/Slice0.lean ====
section
/-! SUPPORT. Tests of the model: ill-formed terms that the checks refuse, a word for every constructor, one step for
the instructions whose worked vectors the spec gives (95_test_vectors.md, Part B, the rule and the instruction of each
row named), and for every statement a state and operands that meet its hypotheses. -/

namespace Sys2Proof.Tests

open Sys2Proof Sys2Proof.Machine Sys2Proof.Claims

/-! ### What cannot be encoded is not well-formed -/

/-- A count below 1 (30_encoding.md R187, R216). -/
theorem test_count_zero_refused :
    wellFormed (.lisp 1 0) = false ∧ wellFormed (.sll 1 0) = false ∧ wellFormed (.incm 0 0x1000 0) = false := by
      decide

/-- A count above 16 (30_encoding.md R187, R216). -/
theorem test_count_seventeen_refused :
    wellFormed (.aisp 1 17) = false ∧ wellFormed (.dslc 1 17) = false ∧ wellFormed (.decm 17 0x1000 0) = false := by
  decide

/-- A base register below R12 (10_state.md R52). -/
theorem test_base_register_refused :
    wellFormed (.lb 11 0) = false ∧ wellFormed (.fcbx 0 1) = false ∧ wellFormed (.lb 12 0) = true := by decide

/-! ### Every constructor's words -/

/-- R175, R196: BR = 01 is R13, displacement A5 (30_encoding.md). -/
theorem test_decode_base_relative :
    decode 0x01A5 0xBEEF = some (.lb 13 0xA5) ∧ decode 0x05A5 0xBEEF = some (.dlb 13 0xA5) ∧
    decode 0x09A5 0xBEEF = some (.stb 13 0xA5) ∧ decode 0x0DA5 0xBEEF = some (.dstb 13 0xA5) ∧
    decode 0x11A5 0xBEEF = some (.ab 13 0xA5) ∧ decode 0x15A5 0xBEEF = some (.sbb 13 0xA5) ∧
    decode 0x19A5 0xBEEF = some (.mb 13 0xA5) ∧ decode 0x1DA5 0xBEEF = some (.db 13 0xA5) ∧
    decode 0x21A5 0xBEEF = some (.fab 13 0xA5) ∧ decode 0x25A5 0xBEEF = some (.fsb 13 0xA5) ∧
    decode 0x29A5 0xBEEF = some (.fmb 13 0xA5) ∧ decode 0x2DA5 0xBEEF = some (.fdb 13 0xA5) ∧
    decode 0x31A5 0xBEEF = some (.orb 13 0xA5) ∧ decode 0x35A5 0xBEEF = some (.andb 13 0xA5) ∧
    decode 0x39A5 0xBEEF = some (.cb 13 0xA5) ∧ decode 0x3DA5 0xBEEF = some (.fcb 13 0xA5) := by decide

/-- R176, R197: BR = 10 is R14, RX = 9 (30_encoding.md). -/
theorem test_decode_base_relative_indexed :
    decode 0x4209 0xBEEF = some (.lbx 14 9) ∧ decode 0x4219 0xBEEF = some (.dlbx 14 9) ∧
    decode 0x4229 0xBEEF = some (.stbx 14 9) ∧ decode 0x4239 0xBEEF = some (.dstx 14 9) ∧
    decode 0x4249 0xBEEF = some (.abx 14 9) ∧ decode 0x4259 0xBEEF = some (.sbbx 14 9) ∧
    decode 0x4269 0xBEEF = some (.mbx 14 9) ∧ decode 0x4279 0xBEEF = some (.dbx 14 9) ∧
    decode 0x4289 0xBEEF = some (.fabx 14 9) ∧ decode 0x4299 0xBEEF = some (.fsbx 14 9) ∧
    decode 0x42A9 0xBEEF = some (.fmbx 14 9) ∧ decode 0x42B9 0xBEEF = some (.fdbx 14 9) ∧
    decode 0x42C9 0xBEEF = some (.cbx 14 9) ∧ decode 0x42D9 0xBEEF = some (.fcbx 14 9) ∧
    decode 0x42E9 0xBEEF = some (.andx 14 9) ∧ decode 0x42F9 0xBEEF = some (.orbx 14 9) := by decide

/-- R177: RA = 5, RX = 9, address BEEF (30_encoding.md). -/
theorem test_decode_long_register_1 :
    decode 0x4859 0xBEEF = some (.xio 5 0xBEEF 9) ∧ decode 0x4959 0xBEEF = some (.vio 5 0xBEEF 9) ∧
    decode 0x7259 0xBEEF = some (.js 5 0xBEEF 9) ∧ decode 0x7359 0xBEEF = some (.soj 5 0xBEEF 9) ∧
    decode 0x7E59 0xBEEF = some (.sjs 5 0xBEEF 9) ∧ decode 0x8059 0xBEEF = some (.l 5 0xBEEF 9) ∧
    decode 0x8459 0xBEEF = some (.li 5 0xBEEF 9) ∧ decode 0x8559 0xBEEF = some (.lim 5 0xBEEF 9) ∧
    decode 0x8659 0xBEEF = some (.dl 5 0xBEEF 9) ∧ decode 0x8859 0xBEEF = some (.dli 5 0xBEEF 9) ∧
    decode 0x8A59 0xBEEF = some (.efl 5 0xBEEF 9) ∧ decode 0x8B59 0xBEEF = some (.lub 5 0xBEEF 9) ∧
    decode 0x8C59 0xBEEF = some (.llb 5 0xBEEF 9) ∧ decode 0x8D59 0xBEEF = some (.lubi 5 0xBEEF 9) ∧
    decode 0x8E59 0xBEEF = some (.llbi 5 0xBEEF 9) ∧ decode 0x9059 0xBEEF = some (.st 5 0xBEEF 9) ∧
    decode 0x9459 0xBEEF = some (.sti 5 0xBEEF 9) ∧ decode 0x9659 0xBEEF = some (.dst 5 0xBEEF 9) ∧
    decode 0x9759 0xBEEF = some (.srm 5 0xBEEF 9) ∧ decode 0x9859 0xBEEF = some (.dsti 5 0xBEEF 9) ∧
    decode 0x9A59 0xBEEF = some (.efst 5 0xBEEF 9) ∧ decode 0x9B59 0xBEEF = some (.stub 5 0xBEEF 9) ∧
    decode 0x9C59 0xBEEF = some (.stlb 5 0xBEEF 9) ∧ decode 0x9D59 0xBEEF = some (.subi 5 0xBEEF 9) ∧
    decode 0x9E59 0xBEEF = some (.slbi 5 0xBEEF 9) ∧ decode 0xA059 0xBEEF = some (.a 5 0xBEEF 9) := by decide

/-- R177: RA = 5, RX = 9, address BEEF (30_encoding.md). -/
theorem test_decode_long_register_2 :
    decode 0xA659 0xBEEF = some (.da 5 0xBEEF 9) ∧ decode 0xA859 0xBEEF = some (.fa 5 0xBEEF 9) ∧
    decode 0xAA59 0xBEEF = some (.efa 5 0xBEEF 9) ∧ decode 0xB059 0xBEEF = some (.s 5 0xBEEF 9) ∧
    decode 0xB659 0xBEEF = some (.ds 5 0xBEEF 9) ∧ decode 0xB859 0xBEEF = some (.fs 5 0xBEEF 9) ∧
    decode 0xBA59 0xBEEF = some (.efs 5 0xBEEF 9) ∧ decode 0xC059 0xBEEF = some (.ms 5 0xBEEF 9) ∧
    decode 0xC459 0xBEEF = some (.m 5 0xBEEF 9) ∧ decode 0xC659 0xBEEF = some (.dm 5 0xBEEF 9) ∧
    decode 0xC859 0xBEEF = some (.fm 5 0xBEEF 9) ∧ decode 0xCA59 0xBEEF = some (.efm 5 0xBEEF 9) ∧
    decode 0xD059 0xBEEF = some (.dv 5 0xBEEF 9) ∧ decode 0xD459 0xBEEF = some (.d 5 0xBEEF 9) ∧
    decode 0xD659 0xBEEF = some (.dd 5 0xBEEF 9) ∧ decode 0xD859 0xBEEF = some (.fd 5 0xBEEF 9) ∧
    decode 0xDA59 0xBEEF = some (.efd 5 0xBEEF 9) ∧ decode 0xE059 0xBEEF = some (.or 5 0xBEEF 9) ∧
    decode 0xE259 0xBEEF = some (.and 5 0xBEEF 9) ∧ decode 0xE459 0xBEEF = some (.xor 5 0xBEEF 9) ∧
    decode 0xE659 0xBEEF = some (.n 5 0xBEEF 9) ∧ decode 0xF059 0xBEEF = some (.c 5 0xBEEF 9) ∧
    decode 0xF459 0xBEEF = some (.cbl 5 0xBEEF 9) ∧ decode 0xF659 0xBEEF = some (.dc 5 0xBEEF 9) ∧
    decode 0xF859 0xBEEF = some (.fc 5 0xBEEF 9) ∧ decode 0xFA59 0xBEEF = some (.efc 5 0xBEEF 9) := by decide

/-- R178: RA = 5, data BEEF (30_encoding.md). -/
theorem test_decode_immediate :
    decode 0x4A51 0xBEEF = some (.aim 5 0xBEEF) ∧ decode 0x4A52 0xBEEF = some (.sim 5 0xBEEF) ∧
    decode 0x4A53 0xBEEF = some (.mim 5 0xBEEF) ∧ decode 0x4A54 0xBEEF = some (.msim 5 0xBEEF) ∧
    decode 0x4A55 0xBEEF = some (.dim 5 0xBEEF) ∧ decode 0x4A56 0xBEEF = some (.dvim 5 0xBEEF) ∧
    decode 0x4A57 0xBEEF = some (.andm 5 0xBEEF) ∧ decode 0x4A58 0xBEEF = some (.orim 5 0xBEEF) ∧
    decode 0x4A59 0xBEEF = some (.xorm 5 0xBEEF) ∧ decode 0x4A5A 0xBEEF = some (.cim 5 0xBEEF) ∧
    decode 0x4A5B 0xBEEF = some (.nim 5 0xBEEF) := by decide

/-- R177: N or C = 5, RX = 9, address BEEF (30_encoding.md). -/
theorem test_decode_long_number :
    decode 0x5059 0xBEEF = some (.sb 5 0xBEEF 9) ∧ decode 0x5259 0xBEEF = some (.sbi 5 0xBEEF 9) ∧
    decode 0x5359 0xBEEF = some (.rb 5 0xBEEF 9) ∧ decode 0x5559 0xBEEF = some (.rbi 5 0xBEEF 9) ∧
    decode 0x5659 0xBEEF = some (.tb 5 0xBEEF 9) ∧ decode 0x5859 0xBEEF = some (.tbi 5 0xBEEF 9) ∧
    decode 0x5959 0xBEEF = some (.tsb 5 0xBEEF 9) ∧ decode 0x7059 0xBEEF = some (.jc 5 0xBEEF 9) ∧
    decode 0x7159 0xBEEF = some (.jci 5 0xBEEF 9) ∧ decode 0x8959 0xBEEF = some (.lm 5 0xBEEF 9) ∧
    decode 0x9159 0xBEEF = some (.stc 5 0xBEEF 9) ∧ decode 0x9259 0xBEEF = some (.stci 5 0xBEEF 9) ∧
    decode 0x9959 0xBEEF = some (.stm 5 0xBEEF 9) := by decide

/-- R173: N = 5, RB = 9 (30_encoding.md). -/
theorem test_decode_bit_register :
    decode 0x5159 0xBEEF = some (.sbr 5 9) ∧ decode 0x5459 0xBEEF = some (.rbr 5 9) ∧
    decode 0x5759 0xBEEF = some (.tbr 5 9) := by decide

/-- R173: RA = 5, RB = 9 (30_encoding.md). -/
theorem test_decode_register_to_register_1 :
    decode 0x5A59 0xBEEF = some (.svbr 5 9) ∧ decode 0x5C59 0xBEEF = some (.rvbr 5 9) ∧
    decode 0x5E59 0xBEEF = some (.tvbr 5 9) ∧ decode 0x6A59 0xBEEF = some (.slr 5 9) ∧
    decode 0x6B59 0xBEEF = some (.sar 5 9) ∧ decode 0x6C59 0xBEEF = some (.scr 5 9) ∧
    decode 0x6D59 0xBEEF = some (.dslr 5 9) ∧ decode 0x6E59 0xBEEF = some (.dsar 5 9) ∧
    decode 0x6F59 0xBEEF = some (.dscr 5 9) ∧ decode 0x8159 0xBEEF = some (.lr 5 9) ∧
    decode 0x8759 0xBEEF = some (.dlr 5 9) ∧ decode 0x8F59 0xBEEF = some (.popm 5 9) ∧
    decode 0x9359 0xBEEF = some (.mov 5 9) ∧ decode 0x9F59 0xBEEF = some (.pshm 5 9) ∧
    decode 0xA159 0xBEEF = some (.ar 5 9) ∧ decode 0xA459 0xBEEF = some (.abs 5 9) ∧
    decode 0xA559 0xBEEF = some (.dabs 5 9) ∧ decode 0xA759 0xBEEF = some (.dar 5 9) ∧
    decode 0xA959 0xBEEF = some (.far 5 9) ∧ decode 0xAB59 0xBEEF = some (.efar 5 9) ∧
    decode 0xAC59 0xBEEF = some (.fabs 5 9) ∧ decode 0xB159 0xBEEF = some (.sr 5 9) ∧
    decode 0xB459 0xBEEF = some (.neg 5 9) ∧ decode 0xB559 0xBEEF = some (.dneg 5 9) ∧
    decode 0xB759 0xBEEF = some (.dsr 5 9) ∧ decode 0xB959 0xBEEF = some (.fsr 5 9) := by decide

/-- R173: RA = 5, RB = 9 (30_encoding.md). -/
theorem test_decode_register_to_register_2 :
    decode 0xBB59 0xBEEF = some (.efsr 5 9) ∧ decode 0xBC59 0xBEEF = some (.fneg 5 9) ∧
    decode 0xC159 0xBEEF = some (.msr 5 9) ∧ decode 0xC559 0xBEEF = some (.mr 5 9) ∧
    decode 0xC759 0xBEEF = some (.dmr 5 9) ∧ decode 0xC959 0xBEEF = some (.fmr 5 9) ∧
    decode 0xCB59 0xBEEF = some (.efmr 5 9) ∧ decode 0xD159 0xBEEF = some (.dvr 5 9) ∧
    decode 0xD559 0xBEEF = some (.dr 5 9) ∧ decode 0xD759 0xBEEF = some (.ddr 5 9) ∧
    decode 0xD959 0xBEEF = some (.fdr 5 9) ∧ decode 0xDB59 0xBEEF = some (.efdr 5 9) ∧
    decode 0xE159 0xBEEF = some (.orr 5 9) ∧ decode 0xE359 0xBEEF = some (.andr 5 9) ∧
    decode 0xE559 0xBEEF = some (.xorr 5 9) ∧ decode 0xE759 0xBEEF = some (.nr 5 9) ∧
    decode 0xE859 0xBEEF = some (.fix 5 9) ∧ decode 0xE959 0xBEEF = some (.flt 5 9) ∧
    decode 0xEA59 0xBEEF = some (.efix 5 9) ∧ decode 0xEB59 0xBEEF = some (.eflt 5 9) ∧
    decode 0xED59 0xBEEF = some (.xwr 5 9) ∧ decode 0xF159 0xBEEF = some (.cr 5 9) ∧
    decode 0xF759 0xBEEF = some (.dcr 5 9) ∧ decode 0xF959 0xBEEF = some (.fcr 5 9) ∧
    decode 0xFB59 0xBEEF = some (.efcr 5 9) := by decide

/-- R173, R216: field 5 is a count of 6, RB = 9 (30_encoding.md). -/
theorem test_decode_shift_count :
    decode 0x6059 0xBEEF = some (.sll 9 6) ∧ decode 0x6159 0xBEEF = some (.srl 9 6) ∧
    decode 0x6259 0xBEEF = some (.sra 9 6) ∧ decode 0x6359 0xBEEF = some (.slc 9 6) ∧
    decode 0x6559 0xBEEF = some (.dsll 9 6) ∧ decode 0x6659 0xBEEF = some (.dsrl 9 6) ∧
    decode 0x6759 0xBEEF = some (.dsra 9 6) ∧ decode 0x6859 0xBEEF = some (.dslc 9 6) := by decide

/-- R174: displacement A5 (30_encoding.md). -/
theorem test_decode_relative :
    decode 0x74A5 0xBEEF = some (.br 0xA5) ∧ decode 0x75A5 0xBEEF = some (.bez 0xA5) ∧
    decode 0x76A5 0xBEEF = some (.blt 0xA5) ∧ decode 0x78A5 0xBEEF = some (.ble 0xA5) ∧
    decode 0x79A5 0xBEEF = some (.bgt 0xA5) ∧ decode 0x7AA5 0xBEEF = some (.bnz 0xA5) ∧
    decode 0x7BA5 0xBEEF = some (.bge 0xA5) := by decide

/-- R211: N = 9 (30_encoding.md). -/
theorem test_decode_branch_to_executive :
    decode 0x7709 0xBEEF = some (.bex 9) := by decide

/-- R177: RX = 9, address BEEF (30_encoding.md). -/
theorem test_decode_long_without_register :
    decode 0x7C09 0xBEEF = some (.lsti 0xBEEF 9) ∧ decode 0x7D09 0xBEEF = some (.lst 0xBEEF 9) := by decide

/-- R173: the register is 5 (30_encoding.md). -/
theorem test_decode_one_register :
    decode 0x7F50 0xBEEF = some (.urs 5) ∧ decode 0xEC50 0xBEEF = some (.xbr 5) := by decide

/-- R173, R187: RA = 5, field 9 is a count of 10 (30_encoding.md). -/
theorem test_decode_immediate_short :
    decode 0x8259 0xBEEF = some (.lisp 5 10) ∧ decode 0x8359 0xBEEF = some (.lisn 5 10) ∧
    decode 0xA259 0xBEEF = some (.aisp 5 10) ∧ decode 0xB259 0xBEEF = some (.sisp 5 10) ∧
    decode 0xC259 0xBEEF = some (.misp 5 10) ∧ decode 0xC359 0xBEEF = some (.misn 5 10) ∧
    decode 0xD259 0xBEEF = some (.disp 5 10) ∧ decode 0xD359 0xBEEF = some (.disn 5 10) ∧
    decode 0xF259 0xBEEF = some (.cisp 5 10) ∧ decode 0xF359 0xBEEF = some (.cisn 5 10) := by decide

/-- R177, R216: field 5 is a count of 6, RX = 9, address BEEF (30_encoding.md). -/
theorem test_decode_memory_count :
    decode 0xA359 0xBEEF = some (.incm 6 0xBEEF 9) ∧ decode 0xB359 0xBEEF = some (.decm 6 0xBEEF 9) := by decide

/-- R209 (30_encoding.md). -/
theorem test_decode_whole_word :
    decode 0xFF00 0xBEEF = some .nop ∧ decode 0xFFFF 0xBEEF = some .bpt := by decide

/-- Words that are no instruction (95_test_vectors.md, B.30; R211). -/
theorem test_decode_undefined :
    decode 0x6400 0 = none ∧ decode 0x4C00 0 = none ∧ decode 0xFF01 0 = none ∧ decode 0x4A0C 0 = none ∧
    decode 0x4A00 0 = none ∧ decode 0x7711 0 = none ∧ decode 0x7C10 0 = none ∧ decode 0x7FF1 0 = none ∧
    decode 0xEC11 0 = none := by decide

/-- The encoder writes the words that the spec's syntax rules give (30_encoding.md R173 to R178). -/
theorem test_encode :
    encode (.lb 13 0x10) = [0x0110] ∧ encode (.lbx 12 5) = [0x4005] ∧ encode (.aim 3 0xFFFE) = [0x4A31, 0xFFFE] ∧
    encode (.lisp 3 16) = [0x823F] ∧ encode (.sll 1 4) = [0x6031] ∧ encode (.lst 0x0500 0) = [0x7D00, 0x0500] ∧
    encode (.incm 16 0x1000 0) = [0xA3F0, 0x1000] ∧ encode .bpt = [0xFFFF] := by decide

/-- Bits in the numbering of spec/opcode_table.json: the second word above the first. -/
theorem test_decodeTableWord :
    decodeTableWord 16 0x8112 = some (.lr 1 2) ∧ decodeTableWord 32 0x10008012 = some (.l 1 0x1000 2) ∧
    decodeTableWord 16 0x8012 = some (.l 1 0 2) ∧ decodeTableWord 16 0x6400 = none := by decide

/-! ### One step -/

/-- The machine of the vectors: no expanded memory, all of memory present (95_test_vectors.md, Part B), with IC, some
registers and some words of memory. -/
def start (ic : Word) (regs : List (Reg × Word)) (cells : List (Nat × Word)) : State :=
  { State.reset with
    cfg := { installed with xmem := false, xmemLock := false }
    ic := ic
    regs := regs.foldl (fun v p => v.set p.1.toNat p.2) (Vector.replicate 16 0#16)
    mem := cells.foldl (fun m p => Memory.setWord m p.1 p.2) [] }

/-- The step answers a next state that has a property. -/
def after (s : State) (p : State → Bool) : Bool :=
  match step s with
  | .next t => p t
  | _ => false

/-- R238 (XIO RSW). -/
theorem test_rsw_delivers_the_status_word :
    after ({ start 0x0100 []
      [(0x0100, 0x4830), (0x0101, 0xA00E)] with
      sw := 0x4000 })
      (fun t => t.reg 3 == 0x4000 && t.ic == 0x0102) = true := by decide

/-- R224 (XIO (privileged)). -/
theorem test_xio_faults_in_a_user_program :
    after ({ start 0x0100 [(3, 0x1111)]
      [(0x0100, 0x4830), (0x0101, 0xA00E)] with
      sw := 0x0010 })
      (fun t => t.reg 3 == 0x1111 && t.ft == 0x0020 && t.pir == 0x4000 && t.ic == 0x0102) = true := by decide

/-- R232 (XIO RPI bit 1). -/
theorem test_rpi_of_one_clears_the_fault_register :
    after ({ start 0x0100 [(2, 0x0001)]
      [(0x0100, 0x4820), (0x0101, 0x2004)] with
      pir := 0x4000, ft := 0x0040 })
      (fun t => t.pir == 0x0000 && t.ft == 0x0000) = true := by decide

/-- R234 (XIO WSW bad AS). -/
theorem test_wsw_records_an_address_state_fault :
    after (start 0x0100 [(2, 0xA003)]
      [(0x0100, 0x4820), (0x0101, 0x200E)])
      (fun t => t.sw == 0xA000 && t.ft == 0x0010 && t.pir == 0x4000 && t.ic == 0x0102) = true := by decide

/-- R226 (XIO undefined command). -/
theorem test_undefined_command_faults :
    after (start 0x0100 [(2, 0x0000)]
      [(0x0100, 0x4820), (0x0101, 0x3000)])
      (fun t => t.ft == 0x0400 && t.pir == 0x4000 && t.ic == 0x0102) = true := by decide

/-- R275 (VIO output then input). -/
theorem test_vio_performs_in_order :
    after (start 0x0100 [(1, 0x8000)]
      [(0x0100, 0x4910), (0x0101, 0x0200), (0x0200, 0x2000), (0x0201, 0xC000), (0x0202, 0x0F0F)])
      (fun t => t.mkr == 0x0F0F && Memory.word t.mem 0x0203 == 0x0F0F) = true := by decide

/-- R291 (SB). -/
theorem test_sb_sets_the_bit :
    after (start 0x0100 []
      [(0x0100, 0x5030), (0x0101, 0x1000), (0x1000, 0x0000)])
      (fun t => Memory.word t.mem 0x1000 == 0x1000) = true := by decide

/-- R300 (TSB). -/
theorem test_tsb_tests_the_old_bit :
    after (start 0x0100 []
      [(0x0100, 0x5900), (0x0101, 0x1000), (0x1000, 0x8000)])
      (fun t => Memory.word t.mem 0x1000 == 0x8000 && t.cs == 0b0001) = true := by decide

/-- R302 (RVBR). -/
theorem test_rvbr_clears_the_bit :
    after (start 0x0100 [(1, 0x000F), (2, 0xFFFF)]
      [(0x0100, 0x5C12)])
      (fun t => t.reg 2 == 0xFFFE) = true := by decide

/-- R313 (SRA). -/
theorem test_sra_keeps_the_sign :
    after (start 0x0100 [(1, 0x9ABC)]
      [(0x0100, 0x6231)])
      (fun t => t.reg 1 == 0xF9AB && t.cs == 0b0001) = true := by decide

/-- R318 (DSLC). -/
theorem test_dslc_turns_the_pair :
    after (start 0x0100 [(2, 0x9ABC), (3, 0x5DEF)]
      [(0x0100, 0x6832)])
      (fun t => t.reg 2 == 0xABC5 && t.reg 3 == 0xDEF9 && t.cs == 0b0001) = true := by decide

/-- R320 (SLR). -/
theorem test_slr_beyond_the_width_overflows :
    after ({ start 0x0100 [(1, 0x00FF), (2, 0x0011)]
      [(0x0100, 0x6A12)] with
      sw := 0x8000 })
      (fun t => t.reg 1 == 0x00FF && t.cs == 0b1000 && t.pir == 0x0800) = true := by decide

/-- R321 (SAR). -/
theorem test_sar_overflows_on_a_new_sign :
    after (start 0x0100 [(1, 0x4000), (2, 0x0001)]
      [(0x0100, 0x6B12)])
      (fun t => t.reg 1 == 0x8000 && t.cs == 0b0001 && t.pir == 0x0800) = true := by decide

/-- R325 (DSCR). -/
theorem test_dscr_turns_the_pair :
    after (start 0x0100 [(2, 0x1234), (3, 0x5678), (4, 0x0008)]
      [(0x0100, 0x6F24)])
      (fun t => t.reg 2 == 0x3456 && t.reg 3 == 0x7812 && t.cs == 0b0100) = true := by decide

/-- R341 (JC). -/
theorem test_jc_is_not_taken :
    after ({ start 0x0100 []
      [(0x0100, 0x7020), (0x0101, 0x1234)] with
      sw := 0x4000 })
      (fun t => t.ic == 0x0102) = true := by decide

/-- R342 (JCI). -/
theorem test_jci_reads_its_target :
    after (start 0x0100 []
      [(0x0100, 0x7170), (0x0101, 0x0180), (0x0180, 0x2000)])
      (fun t => t.ic == 0x2000) = true := by decide

/-- R344 (SOJ). -/
theorem test_soj_wraps :
    after (start 0x0100 [(3, 0x0000)]
      [(0x0100, 0x7330), (0x0101, 0x0200)])
      (fun t => t.reg 3 == 0xFFFF && t.cs == 0b0001 && t.ic == 0x0200) = true := by decide

/-- R345 (BR). -/
theorem test_br_goes_back :
    after (start 0x0100 []
      [(0x0100, 0x74FE)])
      (fun t => t.ic == 0x00FE) = true := by decide

/-- R348 (BEX). -/
theorem test_bex_enters_the_executive :
    after ({ start 0x0200 []
      [(0x0200, 0x7701), (0x002A, 0x0500), (0x002B, 0x0600), (0x0600, 0xFFFF), (0x0601, 0x0000), (0x0602, 0x1000),
        (0x0603, 0x1100)] with
      mkr := 0x00FF, sw := 0x4030, inten := true })
      (fun t => Memory.word t.mem 0x0500 == 0x00FF && Memory.word t.mem 0x0501 == 0x4030 &&
        Memory.word t.mem 0x0502 == 0x0201 && t.mkr == 0xFFFF && t.sw == 0x0000 && t.ic == 0x1100 &&
        t.inten == false && t.atExecutive) = true := by decide

/-- R348: directly after a BEX the first instruction of the executive runs, a power down interrupt pending, and the
boundary after it is an ordinary one. -/
theorem test_bex_boundary_takes_no_interrupt :
    (let s : State := { start 0x1100 [(2, 5)] [(0x1100, 0x8112)] with pir := 0x8000, atExecutive := true }
     s.recognised = some 0 ∧
     after s (fun t => t.ic == 0x1101 && t.reg 1 == 5 && t.pir == 0x8000 && !t.atExecutive &&
       t.dueInterrupt == some 0) = true) := by decide

/-- R354 (LST). -/
theorem test_lst_loads_the_context :
    after (start 0x0100 []
      [(0x0100, 0x7D00), (0x0101, 0x0500), (0x0500, 0x00FF), (0x0501, 0x4030), (0x0502, 0x0201)])
      (fun t => t.mkr == 0x00FF && t.sw == 0x4030 && t.ic == 0x0201) = true := by decide

/-- R355 (SJS). -/
theorem test_sjs_stacks_the_return :
    after (start 0x0100 [(15, 0x8000)]
      [(0x0100, 0x7EF0), (0x0101, 0x0300)])
      (fun t => Memory.word t.mem 0x7FFF == 0x0102 && t.reg 15 == 0x7FFF && t.ic == 0x0300) = true := by decide

/-- R356 (URS). -/
theorem test_urs_unstacks_it :
    after (start 0x0100 [(15, 0x7FFF)]
      [(0x0100, 0x7FF0), (0x7FFF, 0x0102)])
      (fun t => t.ic == 0x0102 && t.reg 15 == 0x8000) = true := by decide

/-- R372 (LB). -/
theorem test_lb_uses_its_base :
    after (start 0x0100 [(13, 0x2000)]
      [(0x0100, 0x0110), (0x2010, 0x0007)])
      (fun t => t.reg 2 == 0x0007 && t.cs == 0b0100) = true := by decide

/-- R373 (LBX). -/
theorem test_lbx_wraps :
    after (start 0x0100 [(12, 0x2000), (5, 0xFFFF)]
      [(0x0100, 0x4005), (0x1FFF, 0x0000)])
      (fun t => t.reg 2 == 0x0000 && t.cs == 0b0010) = true := by decide

/-- R378 (LI pre-indexed). -/
theorem test_li_indexes_before_the_pointer :
    after (start 0x0100 [(2, 0x0001)]
      [(0x0100, 0x8412), (0x0101, 0x0180), (0x0181, 0x2000), (0x2000, 0x0001)])
      (fun t => t.reg 1 == 0x0001 && t.cs == 0b0100) = true := by decide

/-- R382 (DL into R15,R0). -/
theorem test_dl_wraps_the_pair :
    after (start 0x0100 []
      [(0x0100, 0x86F0), (0x0101, 0x1000), (0x1000, 0x0001), (0x1001, 0x0002)])
      (fun t => t.reg 15 == 0x0001 && t.reg 0 == 0x0002 && t.cs == 0b0100) = true := by decide

/-- R392 (LUB). -/
theorem test_lub_keeps_the_upper_byte :
    after (start 0x0100 [(1, 0xFF00)]
      [(0x0100, 0x8B10), (0x0101, 0x1000), (0x1000, 0x12AB)])
      (fun t => t.reg 1 == 0xFF12 && t.cs == 0b0001) = true := by decide

/-- R396 (POPM wrap). -/
theorem test_popm_skips_the_stack_pointer :
    after (start 0x0100 [(15, 0x7000)]
      [(0x0100, 0x8FE1), (0x7000, 0x000E), (0x7001, 0x000F), (0x7002, 0x0000), (0x7003, 0x0001)])
      (fun t => t.reg 14 == 0x000E && t.reg 0 == 0x0000 && t.reg 1 == 0x0001 && t.reg 15 == 0x7004) = true := by
        decide

/-- R404 (STI). -/
theorem test_sti_stores_through_the_pointer :
    after (start 0x0100 [(1, 0x5555)]
      [(0x0100, 0x9410), (0x0101, 0x0180), (0x0180, 0x2000)])
      (fun t => Memory.word t.mem 0x2000 == 0x5555) = true := by decide

/-- R409 (MOV). -/
theorem test_mov_moves_one_word :
    after (start 0x0100 [(2, 0x2000), (3, 0x0002), (4, 0x1000)]
      [(0x0100, 0x9324), (0x1000, 0x000A), (0x1001, 0x000B)])
      (fun t => Memory.word t.mem 0x2000 == 0x000A && t.reg 2 == 0x2001 && t.reg 3 == 0x0001 &&
        t.reg 4 == 0x1001 && t.ic == 0x0100) = true := by decide

/-- R414 (SRM). -/
theorem test_srm_stores_through_the_mask :
    after (start 0x0100 [(2, 0xABCD), (3, 0x0FF0)]
      [(0x0100, 0x9720), (0x0101, 0x1000), (0x1000, 0x1234)])
      (fun t => Memory.word t.mem 0x1000 == 0x1BC4) = true := by decide

/-- R426 (PSHM wrap). -/
theorem test_pshm_stores_the_pointer :
    after (start 0x0100 [(15, 0x8000), (14, 0x000E), (0, 0x00A0), (1, 0x00A1), (2, 0x00A2)]
      [(0x0100, 0x9FE2)])
      (fun t => Memory.word t.mem 0x7FFB == 0x000E && Memory.word t.mem 0x7FFC == 0x7FFC &&
        Memory.word t.mem 0x7FFD == 0x00A0 && Memory.word t.mem 0x7FFE == 0x00A1 &&
        Memory.word t.mem 0x7FFF == 0x00A2 && t.reg 15 == 0x7FFB) = true := by decide

/-- R435 (AR). -/
theorem test_ar_overflows :
    after (start 0x0100 [(1, 0x7FFF), (2, 0x0001)]
      [(0x0100, 0xA112)])
      (fun t => t.reg 1 == 0x8000 && t.cs == 0b0001 && t.pir == 0x0800) = true := by decide

/-- R440 (AIM). -/
theorem test_aim_carries :
    after (start 0x0100 [(3, 0x0005)]
      [(0x0100, 0x4A31), (0x0101, 0xFFFE)])
      (fun t => t.reg 3 == 0x0003 && t.cs == 0b1100 && t.pir == 0x0000) = true := by decide

/-- R454 (SBB). -/
theorem test_sbb_borrows :
    after (start 0x0100 [(13, 0x2000), (2, 0x0000)]
      [(0x0100, 0x1502), (0x2002, 0x0001)])
      (fun t => t.reg 2 == 0xFFFF && t.cs == 0b0001) = true := by decide

/-- R441 (INCM). -/
theorem test_incm_overflows :
    after (start 0x0100 []
      [(0x0100, 0xA300), (0x0101, 0x1000), (0x1000, 0x7FFF)])
      (fun t => Memory.word t.mem 0x1000 == 0x8000 && t.cs == 0b0001 && t.pir == 0x0800) = true := by decide

/-- R443 (DABS). -/
theorem test_dabs_of_the_most_negative :
    after (start 0x0100 [(2, 0x8000), (3, 0x0000)]
      [(0x0100, 0xA502)])
      (fun t => t.reg 0 == 0x8000 && t.reg 1 == 0x0000 && t.cs == 0b0001 && t.pir == 0x0800) = true := by decide

/-- R449 (FA). -/
theorem test_fa_underflows :
    after (start 0x0100 [(0, 0x4000), (1, 0x0080)]
      [(0x0100, 0xA800), (0x0101, 0x1000), (0x1000, 0xBFFF), (0x1001, 0xFF80)])
      (fun t => t.reg 0 == 0x0000 && t.reg 1 == 0x0000 && t.cs == 0b0010 && t.pir == 0x0200) = true := by decide

/-- R450 (EFAR). -/
theorem test_efar_adds :
    after (start 0x0100 [(0, 0x4000), (1, 0x0027), (2, 0x0000), (3, 0x4000), (4, 0x0001), (5, 0x0000)]
      [(0x0100, 0xAB03)])
      (fun t => t.reg 0 == 0x4000 && t.reg 1 == 0x0027 && t.reg 2 == 0x0001 && t.cs == 0b0100) = true := by decide

/-- R470 (FNEG). -/
theorem test_fneg_overflows :
    after (start 0x0100 [(2, 0x8000), (3, 0x007F)]
      [(0x0100, 0xBC02)])
      (fun t => t.reg 0 == 0x7FFF && t.reg 1 == 0xFF7F && t.cs == 0b0100 && t.pir == 0x1000) = true := by decide

/-- R491 (MISN). -/
theorem test_misn_overflows :
    after (start 0x0100 [(1, 0x0801)]
      [(0x0100, 0xC31F)])
      (fun t => t.reg 1 == 0x7FF0 && t.cs == 0b0100 && t.pir == 0x0800) = true := by decide

/-- R494 (MR). -/
theorem test_mr_squares_the_most_negative :
    after (start 0x0100 [(0, 0x8000), (2, 0x8000)]
      [(0x0100, 0xC502)])
      (fun t => t.reg 0 == 0x4000 && t.reg 1 == 0x0000 && t.cs == 0b0100 && t.pir == 0x0000) = true := by decide

/-- R502 (FMB). -/
theorem test_fmb_multiplies :
    after (start 0x0100 [(12, 0x1000), (0, 0x6000), (1, 0x0002)]
      [(0x0100, 0x2800), (0x1000, 0xA000), (0x1001, 0x0001)])
      (fun t => t.reg 0 == 0xB800 && t.reg 1 == 0x0003 && t.cs == 0b0001) = true := by decide

/-- R507 (DVR). -/
theorem test_dvr_cuts_toward_zero :
    after (start 0x0100 [(0, 0xFFF9), (2, 0x0002)]
      [(0x0100, 0xD102)])
      (fun t => t.reg 0 == 0xFFFD && t.reg 1 == 0xFFFF && t.cs == 0b0001 && t.pir == 0x0000) = true := by decide

/-- R515 (D). -/
theorem test_d_overflows :
    after (start 0x0100 [(0, 0xC000), (1, 0x0000)]
      [(0x0100, 0xD400), (0x0101, 0x1000), (0x1000, 0x7FFF)])
      (fun t => t.reg 0 == 0x7FFF && t.reg 1 == 0xFFFF && t.cs == 0b0100 && t.pir == 0x0800) = true := by decide

/-- R519 (FDR). -/
theorem test_fdr_divides :
    after (start 0x0100 [(0, 0x4000), (1, 0x0001), (2, 0x6000), (3, 0x0002)]
      [(0x0100, 0xD902)])
      (fun t => t.reg 0 == 0x5555 && t.reg 1 == 0x55FF && t.cs == 0b0100) = true := by decide

/-- R523 (EFDR). -/
theorem test_efdr_divides :
    after (start 0x0100 [(0, 0x4000), (1, 0x0001), (2, 0x0000), (3, 0x6000), (4, 0x0002), (5, 0x0000)]
      [(0x0100, 0xDB03)])
      (fun t => t.reg 0 == 0x5555 && t.reg 1 == 0x55FF && t.reg 2 == 0x5555 && t.cs == 0b0100) = true := by decide

/-- R544 (NR). -/
theorem test_nr_complements :
    after (start 0x0100 [(1, 0x00FF)]
      [(0x0100, 0xE711)])
      (fun t => t.reg 1 == 0xFF00 && t.cs == 0b0001) = true := by decide

/-- R547 (FIX). -/
theorem test_fix_cuts_toward_zero :
    after (start 0x0100 [(2, 0xA800), (3, 0x0003)]
      [(0x0100, 0xE802)])
      (fun t => t.reg 0 == 0xFFFB && t.cs == 0b0001 && t.pir == 0x0000) = true := by decide

/-- R550 (EFLT). -/
theorem test_eflt_converts :
    after (start 0x0100 [(3, 0x7FFF), (4, 0xFFFF)]
      [(0x0100, 0xEB03)])
      (fun t => t.reg 0 == 0x7FFF && t.reg 1 == 0xFF1F && t.reg 2 == 0xFF00 && t.cs == 0b0100) = true := by decide

/-- R552 (XWR). -/
theorem test_xwr_exchanges :
    after (start 0x0100 [(1, 0x0000), (2, 0x8000)]
      [(0x0100, 0xED12)])
      (fun t => t.reg 1 == 0x8000 && t.reg 2 == 0x0000 && t.cs == 0b0001) = true := by decide

/-- R568 (CBL). -/
theorem test_cbl_of_crossed_limits :
    after (start 0x0100 [(1, 0x0000)]
      [(0x0100, 0xF410), (0x0101, 0x1000), (0x1000, 0x000A), (0x1001, 0xFFF6)])
      (fun t => t.cs == 0b1000) = true := by decide

/-- R571 (FCR). -/
theorem test_fcr_compares :
    after (start 0x0100 [(0, 0x4000), (1, 0x0001), (2, 0x4000), (3, 0x0000)]
      [(0x0100, 0xF902)])
      (fun t => t.cs == 0b0100) = true := by decide

/-- R576 (EFC). -/
theorem test_efc_compares :
    after (start 0x0100 [(0, 0x8000), (1, 0x0000), (2, 0x0000)]
      [(0x0100, 0xFA00), (0x0101, 0x1000), (0x1000, 0x0000), (0x1001, 0x0000), (0x1002, 0x0000)])
      (fun t => t.cs == 0b0001) = true := by decide

/-- R578 (BPT). -/
theorem test_bpt_halts :
    after (start 0x0200 []
      [(0x0200, 0xFFFF)])
      (fun t => t.ic == 0x0201 && t.halted == true) = true := by decide

/-- R210 (undefined first word). -/
theorem test_undefined_word_faults :
    after (start 0x0100 []
      [(0x0100, 0x6400)])
      (fun t => t.ft == 0x0040 && t.pir == 0x4000 && t.ic == 0x0101) = true := by decide


/-- The first instruction after reset, placed where the step fetches it: LR R1,R2 (44_load.md R371). -/
theorem test_withFetchWord :
    after (State.reset.withFetchWord 16 0x8112) (fun t => t.ic == 1 && t.cs == 0b0010 && t.reg 1 == 0) = true := by
  decide

/-- An interrupt of lower number goes first, and its sequence is a step of its own (60_exceptions.md R623, R628). -/
theorem test_first_interrupt_first :
    after { start 0x0100 [] [(0x0024, 0x0500), (0x0025, 0x0600), (0x0602, 0x1000)] with
      pir := 0x2100, mkr := 0xFFFF, inten := true }
      (fun t => t.ic == 0x1000 && t.pir == 0x0100 && t.inten == false &&
        Memory.word t.mem 0x0502 == 0x0100) = true := by
  decide

/-- A DMA write between the read and the write of SB is lost, since SB stores the whole word it computed from what it
read; none comes between the two of TSB, and it waits for the next reference (20_memory.md R153). -/
theorem test_dma_between_read_and_write :
    (let s := start 0x0100 [] [(0x0100, 0x50F0), (0x0101, 0x1000), (0x1000, 0x0100)]
     after { s with io := { s.io with dmaen := true }, bus := [[], [], [], [.write 0x1000 0x8000]] }
      (fun t => Memory.word t.mem 0x1000 == 0x0101 && t.bus == [])) = true ∧
    (let s := start 0x0100 [] [(0x0100, 0x59F0), (0x0101, 0x1000), (0x1000, 0x0100)]
     after { s with io := { s.io with dmaen := true }, bus := [[], [], [], [.write 0x1000 0x8000]] }
      (fun t => Memory.word t.mem 0x1000 == 0x0101 && t.bus == [[.write 0x1000 0x8000]])) = true := by decide

/-- The map of the block protect RAM for DMA begins at word 64; without expanded memory no word above 67 is selected
(20_memory.md R130). -/
theorem test_dma_protection :
    (let s := start 0 [] []
     let p : State := { s with io := { s.io with dmaen := true }, mpen := true, mpr := s.mpr.set 64 0x0800 }
     let q : State := { s with io := { s.io with dmaen := true }, mpen := true, mpr := s.mpr.set 69 0xFFFF }
     (p.dmaWrite 0x1000 7).ft = 0x4000 ∧ Memory.word (p.dmaWrite 0x1000 7).mem 0x1000 = 0 ∧
     Memory.word (p.dmaWrite 0x1400 7).mem 0x1400 = 7 ∧ (q.dmaWrite 0x14000 7).ft = 0x0080) := by decide

/-- The fault register bits that the rules make reachable exist whatever FT_IMPL is,
  and bits 1 and 2 only with the options
that raise them (00_scope.md R10). -/
theorem test_faultBits :
    ({ installed with ftImpl := 0 } : Config).faultBits = 0xE4F0 ∧
    ({ installed with xmem := false, hasMprot := false, hasDma := false, hasParity := false } : Config).faultBits =
      0x9FFF := by decide

/-! ### The hypotheses of the statements can be met -/

/-- A machine of the vectors with an address in every base register, the stack pointer and R2. -/
def plain : State :=
  start 0x0100 [(1, 0x7FFF), (2, 0x2000), (3, 3), (12, 0x1000), (13, 0x4000), (15, 0x8000)]
    [(0x1000, 0x8000), (0x2000, 0x0005), (0x0500, 0x00FF), (0x0501, 0x4030), (0x0502, 0x0201), (0x0180, 0x0500),
      (0x0181, 0x2000)]

/-- The same machine in program state 1. -/
def user : State := { plain with sw := 0x4010 }

/-- The same machine with only its first 4096 words of memory. -/
def small : State := { plain with cfg := { plain.cfg with present := [⟨0, 0x1000⟩] } }

/-- The same machine with DMA on and the first sixteen blocks of 1024 words protected from the CPU and from DMA. -/
def guarded : State :=
  { plain with io := { plain.io with dmaen := true }, mpen := true,
               mpr := ((Vector.replicate 128 0#16).set 0 0xFFFF).set 64 0xFFFF }

/-- The same machine without memory. -/
def bare : State := { plain with cfg := { plain.cfg with present := [] } }

/-- The same machine with one request: interrupt 2, enabled and not masked. -/
def asked : State :=
  { start 0x0100 [] [(0x0024, 0x0500), (0x0025, 0x0600), (0x0600, 0xFFFF), (0x0602, 0x1000)] with
    pir := 0x2000, mkr := 0xFFFF, inten := true }

/-- A machine with expanded memory, page 1 of group 0 with its E bit one, IC in page 1. -/
def barred : State :=
  { State.reset with ic := 0x1000, pri := setPageOf State.reset.pri 0 1 0x0801 }

/-- The same with IC at the last word of page 0, which holds the first word of a load. -/
def crossing : State :=
  { barred with ic := 0x0FFF, mem := Memory.setWord [] 0x0FFF 0x8010 }

/-- A normalized number, and the machine with it in R4, R5 and R6, and in R8, R9 and R10. -/
def floats : State :=
  start 0x0100 [(4, 0x4000), (5, 0x0001), (8, 0xA000), (9, 0x00FF), (12, 0x1000)] [(0x1000, 0x5000), (0x1001, 0x0004)]

/-- The same with patterns in R4, R5, R8 and R9 that the standard does not allow. -/
def unnormalized : State := start 0x0100 [(4, 0x0001), (8, 0xC000)] []

/-- An operand in memory can be read where its words can. -/
theorem in_memory {q : Operand} {s : State} {n : Nat} {da : Word} (ha : q.address s = some da) (hq : q.Reached s)
    (hr : s.Readable da n) : q.Readable s n := ⟨hq, fun x hx => by rw [ha] at hx; cases hx; exact hr⟩

/-- An operand in memory can be written where its words can. -/
theorem into_memory {q : Operand} {s : State} {n : Nat} {da : Word} (ha : q.address s = some da) (hq : q.Reached s)
    (hr : s.Writable da n) : q.Writable s n := ⟨hq, fun x hx => by rw [ha] at hx; cases hx; exact hr⟩

/-- An operand that is not in memory can always be read. -/
theorem not_in_memory {q : Operand} {s : State} {n : Nat} (ha : q.address s = none) (hq : q.Reached s) :
    q.Readable s n := ⟨hq, fun x hx => by rw [ha] at hx; cases hx⟩

/-- The pointer of the indirect operands below can be read. -/
theorem pointer : plain.Readable (plain.direct 0x0180 0) 1 := by decide

theorem test_witness_StepRunsDecodedInstruction :
    (let s : State := { start 0x0100 [(2, 5)] [(0x0100, 0x8112)] with pir := 0x8000, atExecutive := true }
     let e := { s.applyEvents with atExecutive := false }
     e.halted = false ∧ s.applyEvents.atExecutive = true ∧ e.fetchWord e.ic = (.ok 0x8112, e) ∧ isLong 0x8112 = false ∧
     decode 0x8112 0 = some (.lr 1 2) ∧ ∃ t, exec (.lr 1 2) e = .next t) ∧
    (let s := start 0xFFFF [] [(0xFFFF, 0x8010), (0x0000, 0x1000)]
     let e := { s.applyEvents with atExecutive := false }
     e.halted = false ∧ e.recognised = none ∧ e.fetchWord e.ic = (.ok 0x8010, e) ∧ isLong 0x8010 = true ∧
     e.fetchWord (e.ic + 1) = (.ok 0x1000, e) ∧
     decode 0x8010 0x1000 = some (.l 1 0x1000 0) ∧ ∃ t, exec (.l 1 0x1000 0) e = .next t) :=
  ⟨⟨rfl, rfl, rfl, rfl, rfl, _, rfl⟩, rfl, rfl, rfl, rfl, rfl, rfl, _, rfl⟩

theorem test_witness_EncodedInstructionsDecode :
    wellFormed (.lisp 15 1) = true ∧ wellFormed (.lisp 0 16) = true ∧ wellFormed (.lb 12 0xFF) = true := by decide

theorem test_witness_DecodedWordsEncode :
    decode 0x823F 0xBEEF = some (.lisp 3 16) ∧ decode 0x7F00 0xBEEF = some (.urs 0) ∧
    decode 0x4A5B 0xFFFF = some (.nim 5 0xFFFF) := by decide

theorem test_witness_UndefinedInstructions :
    let s := start 0x0100 [] [(0x0100, 0xFF01)]
    s.applyEvents.halted = false ∧ s.applyEvents.recognised = none ∧
    s.applyEvents.fetchWord s.applyEvents.ic = (.ok 0xFF01, s) ∧ decode 0xFF01 0 = none := ⟨rfl, rfl, rfl, rfl⟩

theorem test_witness_FetchFaultAborts :
    (barred.applyEvents.halted = false ∧ barred.applyEvents.recognised = none ∧
     barred.applyEvents.awaitBus.readFault ⟨barred.ic, .instruction, barred.as⟩ barred.ps = some .protection) ∧
    crossing.applyEvents.halted = false ∧ crossing.applyEvents.recognised = none ∧
    crossing.applyEvents.fetchWord crossing.ic = (.ok 0x8010, crossing) ∧ isDefined 0x8010 = true ∧
    isLong 0x8010 = true ∧
    crossing.awaitBus.readFault ⟨crossing.ic + 1, .instruction, crossing.as⟩ crossing.ps = some .protection :=
  ⟨⟨rfl, rfl, rfl⟩, rfl, rfl, rfl, rfl, rfl, rfl⟩

theorem test_witness_StepKeepsSound : Sound plain ∧ ∃ t, step plain = .next t :=
  ⟨by constructor <;> decide, _, rfl⟩

theorem test_witness_UserStateIsConfined :
    user.ps ≠ 0 ∧ (∀ n, Instr.xio 1 0x2000 0 ≠ .bex n) ∧ ∃ t, exec (.xio 1 0x2000 0) user = .next t :=
  ⟨by decide, by decide, _, rfl⟩

theorem test_witness_CounterReachesNextInstruction :
    redirects (.st 1 0x1000 0) = false ∧ ∃ t, exec (.st 1 0x1000 0) plain = .next t := ⟨rfl, _, rfl⟩

theorem test_witness_StoredWordReadsBack :
    Memory.wf [(0, 0x12), (1, 0x34), (0x1FFFFF, 0xFF)] = true ∧
      Memory.wf (Memory.setWord [] 0xFFFFF 0x00FF) = true := by
  decide

theorem test_witness_AddressTranslation : State.reset.cfg.xmem = true ∧ plain.cfg.xmem = false := by decide

theorem test_witness_InterruptIsTaken :
    asked.applyEvents.halted = false ∧ asked.applyEvents.atExecutive = false ∧
    asked.applyEvents.recognised = some 2 ∧ Enterable asked.applyEvents 2 0 :=
  ⟨by decide, by decide, by decide, by constructor <;> decide⟩

/-- A machine without memory refuses the first read; one whose low words the CPU may not write refuses the first linkage
store, the third where only the last linkage word lies in a protected block. -/
theorem test_witness_InterruptSequenceFault :
    (let s : State := { bare with pir := 0x8000 }
     s.applyEvents.halted = false ∧ s.applyEvents.atExecutive = false ∧ s.applyEvents.recognised = some 0 ∧
     s.applyEvents.bus = [] ∧
     ¬Enterable s.applyEvents 0 0) ∧
    (guarded.bus = [] ∧ ¬Enterable guarded 5 15) ∧
    let s : State := { start 0x0100 [] [(0x002A, 0x43FE)] with mpen := true, mpr := Vector.replicate 128 0x4000 }
    s.bus = [] ∧ ¬Enterable s 5 0 :=
  ⟨⟨by decide, by decide, by decide, by decide, fun h => absurd h.service (by decide)⟩,
    ⟨by decide, fun h => absurd (h.store 0 (by decide)) (by decide)⟩,
    by decide, fun h => absurd (h.store 2 (by decide)) (by decide)⟩

theorem test_witness_BranchToExecutive :
    (Enterable plain 5 0 ∧ Enterable plain 5 15) ∧
    (let s : State := { plain with pir := 0x8000, atExecutive := true }
     s.applyEvents.halted = false ∧ s.applyEvents.atExecutive = true) ∧
    ((∀ n, Instr.lr 1 2 ≠ .bex n) ∧ ∃ t, exec (.lr 1 2) plain = .next t) ∧
    (Event.tickA ≠ .reset ∧ Event.tickA ≠ .powerUp) ∧
    let s := start 0x0200 [] [(0x0200, 0x7701)]
    s.applyEvents.halted = false ∧ ∃ t, step s = .next t ∧ t.atExecutive = true :=
  ⟨⟨by constructor <;> decide, by constructor <;> decide⟩, ⟨rfl, rfl⟩, ⟨by decide, _, rfl⟩, ⟨by decide, by decide⟩,
    rfl, _, rfl, by decide⟩

theorem test_witness_LoadStatusReturns :
    plain.ps = 0 ∧ (Operand.direct 0x0500 0).Readable plain 3 ∧ (Operand.direct 0xFFFF 0).Readable plain 3 ∧
    (Operand.indirect 0x0180 0).Readable plain 3 :=
  ⟨by decide, in_memory rfl trivial (by decide), in_memory rfl trivial (by decide),
    in_memory rfl pointer (by decide)⟩

theorem test_witness_PrivilegedInstructionFaults :
    Privileged (.lst 0x0500 0) ∧ user.ps ≠ 0 ∧
    ∃ t, exec (.lst 0x0500 0) user = .next t ∧ t.ft.getMsbD 10 = true :=
  ⟨.lst _ _, by decide, _, rfl, by decide⟩

/-- The second word of a double operand, the pointer of an indirect mode, the word it points to,
  the first of a stack, the
source of a MOV. -/
theorem test_witness_UnreadableOperandAborts :
    let refused := fun la => small.readFault (small.operandRef la) small.ps = some .illegalAddress
    ReadsInOrder small (.dl 1 0x0FFF 0) 2 ([0x0FFF] ++ 0x1000 :: []) ∧ small.bus = [] ∧
    small.readFault (small.operandRef 0x0FFF) small.ps = none ∧ refused 0x1000 ∧
    ReadsInOrder small (.sbi 15 0xFFFF 0) 2 ([] ++ 0xFFFF :: [0]) ∧ refused 0xFFFF ∧
    ReadsInOrder small (.li 1 0x0181 0) 2 ([0x0181] ++ 0x2000 :: []) ∧ refused 0x2000 ∧
    small.readFault (small.operandRef 0x0181) small.ps = none ∧
    ReadsInOrder small (.popm 14 1) 1 ([] ++ 0x8000 :: [0x8001, 0x8002, 0x8003]) ∧ refused 0x8000 ∧
    ReadsInOrder small (.mov 2 12) 1 ([] ++ 0x1000 :: []) :=
  ⟨.loadPair (.dl ..), by decide, by decide, by decide, .modify (.sbi ..), by decide, .load (.li ..), by decide,
    by decide, .popm .., by decide, .mov 2 12 (by decide)⟩

/-- The second word of a double store, the first of a stack, the target of a MOV,
  and the word of INCM and of TSB that may be
read but not written. -/
theorem test_witness_RefusedStoreAborts :
    let refused := fun la => small.writeFault (small.operandRef la) small.ps = some .illegalAddress
    StoresInOrder small (.dst 2 0x0FFF 0) 2 ([(0x0FFF, 0x2000)] ++ (0x1000, 0x0003) :: []) ∧ small.bus = [] ∧
    small.writeFault (small.operandRef 0x0FFF) small.ps = none ∧ refused 0x1000 ∧
    StoresInOrder small (.pshm 2 3) 1 ([] ++ (0x7FFF, 0x0003) :: [(0x7FFE, 0x2000)]) ∧ refused 0x7FFF ∧
    StoresInOrder small (.mov 2 0) 1 ([] ++ (0x2000, small.wordAt 0) :: []) ∧ refused 0x2000 ∧
    StoresInOrder guarded (.incm 16 0x1000 0) 2 ([] ++ (0x1000, 0x8010) :: []) ∧
    StoresInOrder guarded (.tsb 15 0x1000 0) 2 ([] ++ (0x1000, 0x8001) :: []) ∧ guarded.bus = [] ∧
    guarded.writeFault (guarded.operandRef 0x1000) guarded.ps = some .protection :=
  ⟨.store (.dst ..) trivial rfl, by decide, by decide, by decide, .pshm .., by decide,
    .mov 2 0 _ (by decide) (by decide) (fun _ _ => rfl), by decide, .incm _ _ _ (by decide), .tsb _ _ _ (by decide),
    by decide, by decide⟩

/-- A DMA write that waits between the read and the write, and accesses that wait before the reads,
  for a direct and for an
indirect form. -/
theorem test_witness_DmaBetweenReferences :
    let s : State := { plain with
      io := { plain.io with dmaen := true }, bus := [[], [.write 0x1000 0x1234, .read 0xFFFFF], []] }
    plain.bus = [] ∧ s.bus = [] :: [[.write 0x1000 0x1234, .read 0xFFFFF], []] ∧
    ModifyForm s (.sb 15 0x1000 0) (.direct 0x1000 0) (fun q => q ||| bitMask (15 : Nibble).toNat) ∧
    (Operand.direct 0x1000 0).address s = some 0x1000 ∧
    s.awaitBus.readFault (s.operandRef 0x1000) s.ps = none ∧
    s.awaitBus.awaitBus.writeFault (s.operandRef 0x1000) s.ps = none ∧
    ModifyForm s (.sbi 15 0x0180 0) (.indirect 0x0180 0) (fun q => q ||| bitMask (15 : Nibble).toNat) ∧
    s.awaitBus.readFault (s.operandRef 0x0180) s.ps = none ∧
    (Operand.indirect 0x0180 0).address s.awaitBus = some 0x0500 ∧
    s.awaitBus.awaitBus.readFault (s.operandRef 0x0500) s.ps = none ∧
    s.awaitBus.awaitBus.awaitBus.writeFault (s.operandRef 0x0500) s.ps = none ∧
    s.awaitBus.writeFault (s.operandRef 0x1000) s.ps = none :=
  ⟨by decide, by decide, .sb .., by decide, by decide, by decide, .sbi .., by decide, by decide, by decide, by decide,
    by decide⟩

/-- Schedules with and without events; DMA enabled, with a word present and absent, a block protected and not,
  under a start
up ROM and not. -/
theorem test_witness_EnvironmentEvents :
    plain.env = [] ∧ ({ plain with env := [[.tickA], []] } : State).env = [.tickA] :: [[]] ∧
    ¬(plain.cfg.hasDma = true ∧ plain.io.dmaen = true) ∧ guarded.cfg.hasDma = true ∧ guarded.io.dmaen = true ∧
    ((0x03FFF : BitVec 20).toNat < guarded.cfg.physicalWords ∧ guarded.cfg.hasMprot = true ∧ guarded.mpen = true ∧
      (guarded.mpr[64 + 0x03FFF / 16384]?.getD 0#16).getMsbD (0x03FFF / 1024 % 16) = true) ∧
    ¬(guarded.mpr[64 + 0x04000 / 16384]?.getD 0#16).getMsbD (0x04000 / 1024 % 16) = true ∧
    guarded.cfg.isPresent 0x04000 = true ∧ guarded.cfg.isPresent 0x10000 = false ∧
    ¬(0x10000 : BitVec 20).toNat < guarded.cfg.physicalWords ∧ guarded.cfg.hasSurom = false ∧
    let r : State := { guarded with cfg := { guarded.cfg with hasSurom := true, surom := [0x7400] }, suen := true }
    r.cfg.hasSurom = true ∧ r.suen = true ∧ (0 : BitVec 20).toNat < r.cfg.surom.length := by decide

theorem test_witness_LoadResult :
    LoadForm (.l 1 0xFFFF 2) 1 2 (.direct 0xFFFF 2) ∧ (Operand.direct 0xFFFF 2).Readable plain 1 ∧
    LoadForm (.li 1 0x0180 0) 1 2 (.indirect 0x0180 0) ∧ (Operand.indirect 0x0180 0).Readable plain 1 ∧
    LoadForm (.lisn 1 16) 1 1 (.shortNegative 16) ∧ (Operand.shortNegative 16).Readable plain 1 ∧
    LoadByteForm (.llb 1 0 0) 1 false (.direct 0 0) ∧ (Operand.direct 0 0).Readable plain 1 ∧
    LoadPairForm (.dlb 12 0xFF) 0 1 (.base 12 0xFF) ∧ (Operand.base 12 0xFF).Readable plain 2 ∧
    plain.Readable (plain.direct 0xFFFE 0) 3 :=
  ⟨.l .., in_memory rfl trivial (by decide), .li .., in_memory rfl pointer (by decide), .lisn ..,
    not_in_memory rfl trivial, .llb .., in_memory rfl trivial (by decide), .dlb ..,
    in_memory rfl trivial (by decide), by decide⟩

theorem test_witness_LoadMultipleResult :
    plain.Readable (plain.direct 0xFFF8 0) ((15 : Nibble).toNat + 1) ∧
    plain.Readable (plain.direct 0x1000 0) ((0 : Nibble).toNat + 1) ∧
    plain.Readable (plain.reg 15) (((1 : Reg) - 14).toNat + 1) := by decide

theorem test_witness_StoreResult :
    StoreForm (.efst 15 0xFFFF 0) 2 (.direct 0xFFFF 0) [15, 0, 1] ∧ (Operand.direct 0xFFFF 0).Writable plain 3 ∧
    StoreForm (.sti 1 0x0180 0) 2 (.indirect 0x0180 0) [1] ∧ (Operand.indirect 0x0180 0).Writable plain 1 ∧
    StoreConstantForm (.stci 15 0x0180 0) 15 (.indirect 0x0180 0) ∧
    plain.Writable (plain.direct 0xFFF8 0) ((15 : Nibble).toNat + 1) :=
  ⟨.efst .., into_memory rfl trivial (by decide), .sti .., into_memory rfl pointer (by decide),
    .stci .., by decide⟩

theorem test_witness_ModifyWordResult :
    ModifyForm plain (.sbi 15 0x0180 0) (.indirect 0x0180 0) (fun q => q ||| bitMask (15 : Nibble).toNat) ∧
    (Operand.indirect 0x0180 0).Readable plain 1 ∧ (Operand.indirect 0x0180 0).Writable plain 1 :=
  ⟨.sbi .., in_memory rfl pointer (by decide), into_memory rfl pointer (by decide)⟩

theorem test_witness_PushMultipleResult :
    (∀ k, k < ((2 : Reg) - 14).toNat + 1 → plain.Writable (plain.reg 15 - 1 - BitVec.ofNat 16 k) 1) ∧
    ∀ k, k < ((3 : Reg) - 3).toNat + 1 → plain.Writable (plain.reg 15 - 1 - BitVec.ofNat 16 k) 1 := by decide

theorem test_witness_MoveMultipleResult :
    plain.reg (4 + 1) = 0 ∧ (12 : Reg) ≠ 2 ∧ (12 : Reg) ≠ 2 + 1 ∧ plain.reg (2 + 1) ≠ 0 ∧
    plain.Readable (plain.reg 12) 1 ∧ plain.Writable (plain.reg 2) 1 := by decide

theorem test_witness_OverlappingMoveResult :
    ((2 : Reg) = 2 ∨ (2 : Reg) = 2 + 1) ∧ ((3 : Reg) = 2 ∨ (3 : Reg) = 2 + 1) ∧ plain.reg (2 + 1) ≠ 0 ∧
    plain.Readable (plain.reg 2) 1 ∧ plain.Readable (plain.reg 3) 1 ∧ plain.Writable (plain.reg 2) 1 := by decide

theorem test_witness_BitResult :
    RegisterBitForm plain (.svbr 3 2) 2 3 true ∧ RegisterBitForm plain (.rbr 15 2) 2 15 false ∧
    TestBitForm plain (.tbr 0 2) 0 1 (.register 2) ∧ (Operand.register 2).Readable plain 1 ∧
    TestBitForm plain (.tb 15 0x1000 0) 15 2 (.direct 0x1000 0) ∧ (Operand.direct 0x1000 0).Readable plain 1 ∧
    plain.Readable (plain.direct 0x1000 0) 1 ∧ plain.Writable (plain.direct 0x1000 0) 1 :=
  ⟨.svbr .., .rbr .., .tbr .., not_in_memory rfl trivial, .tb .., in_memory rfl trivial (by decide),
    by decide, by decide⟩

theorem test_witness_ShiftResult :
    (∃ f, ShiftForm (.slc 1 16) 0x63 1 16 f) ∧ wellFormed (.slc 1 16) = true ∧ (∃ f,
      ShiftForm (.sra 1 1) 0x62 1 1 f) ∧
    wellFormed (.sra 1 1) = true ∧ (∃ f, ShiftPairForm (.dslc 15 16) 0x68 15 16 f) ∧ wellFormed (.dslc 15 16) = true ∧
    (∃ f, ShiftPairForm (.dsra 15 1) 0x67 15 1 f) ∧ wellFormed (.dsra 15 1) = true :=
  ⟨⟨_, .slc ..⟩, rfl, ⟨_, .sra ..⟩, rfl, ⟨_, .dslc ..⟩, rfl, ⟨_, .dsra ..⟩, rfl⟩

/-- Counts on both sides of each limit: 17, -17, 33 and -32768 are out of range,
  1 and 16 or 32 the limits to the left,
0 and -16 or -32 those to the right. -/
theorem test_witness_CountedShiftResult :
    let s := start 0x0100 [(1, 17), (2, 0xFFEF), (3, 33), (4, 0x8000), (5, 1), (6, 16), (8, 0xFFF0), (9, 32), (10,
      0xFFE0)] []
    16 < (s.reg 1).toInt.natAbs ∧ 16 < (s.reg 2).toInt.natAbs ∧ 32 < (s.reg 3).toInt.natAbs ∧
    32 < (s.reg 4).toInt.natAbs ∧ (0 < (s.reg 5).toInt ∧ (s.reg 5).toInt ≤ 16) ∧
    (0 < (s.reg 6).toInt ∧ (s.reg 6).toInt ≤ 16) ∧ ((s.reg 7).toInt ≤ 0 ∧ -16 ≤ (s.reg 7).toInt) ∧
    ((s.reg 8).toInt ≤ 0 ∧ -16 ≤ (s.reg 8).toInt) ∧ (0 < (s.reg 9).toInt ∧ (s.reg 9).toInt ≤ 32) ∧
    ((s.reg 10).toInt ≤ 0 ∧ -32 ≤ (s.reg 10).toInt) := by decide

theorem test_witness_BranchResult :
    BranchForm (user.sw.getMsbD 1) (user.sw.getMsbD 2) (user.sw.getMsbD 3) (.bgt 0x80) 0x79 0x80 (user.sw.getMsbD 1) ∧
    user.sw.getMsbD 1 = true ∧
    BranchForm (user.sw.getMsbD 1) (user.sw.getMsbD 2) (user.sw.getMsbD 3) (.bez 0x7F) 0x75 0x7F (user.sw.getMsbD 2) ∧
    user.sw.getMsbD 2 = false ∧ plain.Readable (plain.direct 0x0180 0) 1 :=
  ⟨.bgt .., by decide, .bez .., by decide, by decide⟩

theorem test_witness_SubroutineResult :
    plain.Writable (plain.reg 0 - 1) 1 ∧ plain.Readable (plain.reg 15) 1 := by decide

theorem test_witness_AddSubtractResult :
    AddForm (.ab 12 0) 2 1 (.base 12 0) ∧ (Operand.base 12 0).Readable plain 1 ∧
    SubtractForm (.sim 1 0xFFFF) 1 2 (.immediate 0xFFFF) ∧ (Operand.immediate 0xFFFF).Readable plain 1 ∧
    TwoForms .dar .da (.dar 15 2) 15 1 (.register 2) ∧ (Operand.register 2).Readable plain 2 ∧
    TwoForms .dsr .ds (.ds 1 0xFFFF 0) 1 2 (.direct 0xFFFF 0) ∧ (Operand.direct 0xFFFF 0).Readable plain 2 :=
  ⟨.ab .., in_memory rfl trivial (by decide), .sim .., not_in_memory rfl trivial, .register ..,
    not_in_memory rfl trivial, .direct .., in_memory rfl trivial (by decide)⟩

theorem test_witness_IncrementMemoryResult :
    (1 ≤ 1 ∧ 1 ≤ 16) ∧ (1 ≤ 16 ∧ 16 ≤ 16) ∧ plain.Readable (plain.direct 0x1000 0) 1 ∧
    plain.Writable (plain.direct 0x1000 0) 1 := by decide

theorem test_witness_MultiplyResult :
    MultiplyWordForm (.misn 1 16) 1 1 (.shortNegative 16) ∧ (Operand.shortNegative 16).Readable plain 1 ∧
    MultiplyForm (.mbx 12 0) 2 1 (.baseIndexed 12 0) ∧ (Operand.baseIndexed 12 0).Readable plain 1 :=
  ⟨.misn .., not_in_memory rfl trivial, .mbx .., in_memory rfl trivial (by decide)⟩

theorem test_witness_DivideWordResult :
    DivideWordForm (.dvim 1 0) 1 2 (.immediate 0) ∧ (Operand.immediate 0).Readable plain 1 ∧
    ((Operand.immediate 0).word plain).toInt = 0 ∧ ((Operand.immediate 0xFFFF).word plain).toInt ≠ 0 ∧
    DivideForm (.db 12 0) 2 1 (.base 12 0) ∧ (Operand.base 12 0).Readable plain 1 ∧
    ((Operand.base 12 0).word plain).toInt ≠ 0 ∧ ((Operand.base 13 0).word plain).toInt = 0 :=
  ⟨.dvim .., not_in_memory rfl trivial, by decide, by decide, .db ..,
    in_memory rfl trivial (by decide), by decide, by decide⟩

theorem test_witness_MultiplyDivideDoubleResult :
    TwoForms .dmr .dm (.dm 1 0x1000 0) 1 2 (.direct 0x1000 0) ∧ (Operand.direct 0x1000 0).Readable plain 2 ∧
    TwoForms .ddr .dd (.ddr 1 4) 1 1 (.register 4) ∧ (Operand.register 4).Readable plain 2 ∧
    (Operand.register 4).double plain = 0 ∧ (Operand.register 2).double plain ≠ 0 :=
  ⟨.direct .., in_memory rfl trivial (by decide), .register .., not_in_memory rfl trivial,
    by decide, by decide⟩

theorem test_witness_LogicalExchangeResult :
    LogicalForm (.nim 1 0) (fun a d => ~~~(a &&& d)) 1 2 (.immediate 0) ∧ (Operand.immediate 0).Readable plain 1 :=
  ⟨.nim .., not_in_memory rfl trivial⟩

theorem test_witness_CompareResult :
    CompareForm (.cisn 1 1) 1 1 (.shortNegative 1) ∧ (Operand.shortNegative 1).Readable plain 1 ∧
    TwoForms .dcr .dc (.dc 15 0x1000 0) 15 2 (.direct 0x1000 0) ∧ (Operand.direct 0x1000 0).Readable plain 2 ∧
    plain.Readable (plain.direct 0xFFFF 0) 2 :=
  ⟨.cisn .., not_in_memory rfl trivial, .direct .., in_memory rfl trivial (by decide), by decide⟩

theorem test_witness_FloatResultWritten :
    FloatForm (.fab 12 0) (addFloat 24) 0 1 (.base 12 0) ∧ (Operand.base 12 0).Readable floats 2 ∧
    isLegalFloat (floats.reg 0 ++ floats.reg (0 + 1)) = true ∧
    isLegalFloat ((Operand.base 12 0).double floats) = true ∧
    FloatForm (.fdr 4 8) (divFloat 24) 4 1 (.register 8) ∧ (Operand.register 8).Readable floats 2 ∧
    isLegalFloat (floats.reg 4 ++ floats.reg (4 + 1)) = true ∧
    isLegalFloat ((Operand.register 8).double floats) = true ∧
    ExtendedForm (.efmr 4 8) (mulFloat 40) 4 1 (.register 8) ∧ (Operand.register 8).Readable floats 3 ∧
    isLegalFloat (floats.reg 4 ++ floats.reg (4 + 1) ++ floats.reg (4 + 2)) = true ∧
    isLegalFloat ((Operand.register 8).triple floats) = true :=
  ⟨.add (.base ..), in_memory rfl trivial (by decide), by decide, by decide,
    .divide (.register ..), not_in_memory rfl trivial, by decide, by decide,
    .multiply (.register ..), not_in_memory rfl trivial, by decide, by decide⟩

theorem test_witness_FloatResultsAreNormalized :
    isLegalFloat 0x80000080#32 = true ∧ isLegalFloat 0x7FFFFF7F#32 = true ∧ isLegalFloat 0#32 = true ∧
    isLegalFloat 0x800000800000#48 = true ∧ isLegalFloat 0x7FFFFF7FFFFF#48 = true := by decide

set_option exponentiation.threshold 300 in
/-- Sums on each side of the four cases: the largest and the smallest number overflow,
  a difference of neighbours underflows
(00_scope.md R30), and one sum does neither. -/
theorem test_witness_FloatSumIsAlignedSumCutOff :
    (isLegalFloat 0x4000007F#32 = true ∧ isLegalFloat 0x8000007F#32 = true ∧ isLegalFloat 0x40000080#32 = true ∧
     isLegalFloat 0x40000180#32 = true ∧ isLegalFloat 0x400000800000#48 = true) ∧
    (let v := alignedSum false (unpackFloat 0x4000007F#32) (unpackFloat 0x4000007F#32)
     twoPow (24 + 254) ≤ v ∧ ¬v < 0) ∧
    (let v := alignedSum false (unpackFloat 0x8000007F#32) (unpackFloat 0x8000007F#32)
     v < -twoPow (24 + 254) ∧ v < 0) ∧
    (let v := alignedSum true (unpackFloat 0x40000180#32) (unpackFloat 0x40000080#32)
     ¬twoPow (24 + 254) ≤ v ∧ v ≠ 0 ∧ -twoPow (24 - 2) ≤ v ∧ v < twoPow (24 - 2)) ∧
    (let v := alignedSum false (unpackExtended 0x400000800000#48) (unpackExtended 0x400000800000#48)
     ¬v < -twoPow (40 + 254) ∧ ¬v < twoPow (40 - 2)) := by decide

theorem test_witness_FloatProductIsExactProductCutOff :
    (isLegalFloat 0x80000040#32 = true ∧ isLegalFloat 0x8000003F#32 = true ∧ isLegalFloat 0x40000080#32 = true ∧
     isLegalFloat 0x40000000#32 = true ∧ isLegalFloat 0x80000040FFFF#48 = true) ∧
    (unpackFloat 0x80000040#32).e + (unpackFloat 0x8000003F#32).e = 127 ∧
    (unpackFloat 0x80000040#32).m = -twoPow 23 ∧ (unpackFloat 0x8000003F#32).m = -twoPow 23 ∧
    (let v := scaledValue (unpackFloat 0x40000080#32) * scaledValue (unpackFloat 0x40000000#32)
     v ≠ 0 ∧ -twoPow (24 - 2) * twoPow (24 + 127) ≤ v ∧ v < twoPow (24 - 2) * twoPow (24 + 127)) ∧
    ¬127 < (unpackExtended 0x80000040FFFF#48).e + (unpackExtended 0x80000040FFFF#48).e - 1 := by decide

theorem test_witness_FloatQuotientIsExactQuotientCutOff :
    (isLegalFloat 0x4000007F#32 = true ∧ isLegalFloat 0x40000000#32 = true ∧ isLegalFloat 0#32 = true ∧
     isLegalFloat 0x40000080#32 = true ∧ isLegalFloat 0x80000000#32 = true ∧
     isLegalFloat 0x400000800000#48 = true ∧ isLegalFloat 0x800000000000#48 = true) ∧
    (unpackFloat 0x4000007F#32).e - (unpackFloat 0x40000000#32).e = 127 ∧
    (unpackFloat 0x40000000#32).m.natAbs ≤ (unpackFloat 0x4000007F#32).m.natAbs ∧ (unpackFloat 0#32).m = 0 ∧
    (unpackFloat 0x40000080#32).e - (unpackFloat 0x80000000#32).e = -128 ∧
    2 * (unpackFloat 0x40000080#32).m = -(unpackFloat 0x80000000#32).m ∧
    2 * (unpackExtended 0x400000800000#48).m = -(unpackExtended 0x800000000000#48).m ∧
    ¬127 < (unpackFloat 0x80000000#32).e - (unpackFloat 0x80000000#32).e := by decide

theorem test_witness_FloatAbsoluteNegateResult :
    isLegalFloat 0x8000007F#32 = true ∧ isLegalFloat 0x40000080#32 = true ∧ isLegalFloat 0x8000007E#32 = true ∧
    0x8000007E#32 ≠ 0x8000007F#32 ∧ 0x8000007E#32 ≠ 0x40000080#32 := by decide

theorem test_witness_ConversionResult :
    (unpackFloat 0x8000000F#32).e ≤ 15 ∧ isLegalFloat 0x8000000F#32 = true ∧ 15 < (unpackFloat 0x40000010#32).e ∧
    isLegalFloat 0x40000010#32 = true ∧ (unpackExtended 0x8000001F0000#48).e ≤ 31 ∧
    isLegalFloat 0x8000001F0000#48 = true ∧ 31 < (unpackExtended 0x400000200000#48).e ∧
    isLegalFloat 0x400000200000#48 = true := by decide

theorem test_witness_FloatCompareResult :
    FourForms .fcr .fcb .fcbx .fc (.fcr 4 8) 4 1 (.register 8) ∧ (Operand.register 8).Readable floats 2 ∧
    isLegalFloat (floats.reg 4 ++ floats.reg (4 + 1)) = true ∧
    isLegalFloat ((Operand.register 8).double floats) = true ∧
    TwoForms .efcr .efc (.efcr 4 8) 4 1 (.register 8) ∧ (Operand.register 8).Readable floats 3 ∧
    isLegalFloat (floats.reg 4 ++ floats.reg (4 + 1) ++ floats.reg (4 + 2)) = true ∧
    isLegalFloat ((Operand.register 8).triple floats) = true :=
  ⟨.register .., not_in_memory rfl trivial, by decide, by decide, .register ..,
    not_in_memory rfl trivial, by decide, by decide⟩

theorem test_witness_UnnormalizedOperandIsOpen :
    FloatForm (.fsr 4 8) (subFloat 24) 4 1 (.register 8) ∧ ExtendedForm (.efsr 4 8) (subFloat 40) 4 1 (.register 8) ∧
    FourForms .fcr .fcb .fcbx .fc (.fcr 4 8) 4 1 (.register 8) ∧
    TwoForms .efcr .efc (.efcr 4 8) 4 1 (.register 8) ∧
    (Operand.register 8).Readable unnormalized 2 ∧ (Operand.register 8).Readable unnormalized 3 ∧
    isLegalFloat (unnormalized.reg 4 ++ unnormalized.reg (4 + 1)) = false ∧
    isLegalFloat ((Operand.register 8).double unnormalized) = false ∧
    isLegalFloat (unnormalized.reg 4 ++ unnormalized.reg (4 + 1) ++ unnormalized.reg (4 + 2)) = false ∧
    isLegalFloat ((Operand.register 8).triple unnormalized) = false :=
  ⟨.subtract (.register ..), .subtract (.register ..), .register .., .register .., not_in_memory rfl trivial,
    not_in_memory rfl trivial, by decide, by decide, by decide, by decide⟩

theorem test_witness_NopBreakPointResult : ({ plain with halted := true } : State).applyEvents.halted = true := by
  decide

theorem test_witness_InputCommandResult :
    (plain.ps = 0 ∧ Delivers plain (plain.direct 0xA000 0) plain.mkr ∧
     Delivers plain (plain.direct 0xD07F 0) plain.mpr[127] ∧ plain.cfg.hasIoic = true ∧
     plain.direct 0xA00F 0 = 0xA00F ∧ plain.direct 0xA001 0 = 0xA001 ∧ plain.direct 0xA002 0 = 0xA002) ∧
    (0x8000 ≤ (plain.direct 0x83FF 0).toNat ∧ Answered plain.cfg (plain.direct 0x83FF 0) ∧
     (∀ b ∈ plain.io.portIn, b.1 ≠ plain.direct 0x83FF 0)) ∧
    (let s : State := { plain with
      io := { plain.io with portIn := [(0x8000, 1), (0x83FF, 2), (0x83FF, 3)] }
      console := { plain.console with input := [0x12, 0x34, 0x56] } }
     s.io.portIn = [(0x8000, 1)] ++ (s.direct 0x83FF 0, 2) :: [(0x83FF, 3)] ∧
     (∀ b ∈ [((0x8000 : Word), (1 : Word))], b.1 ≠ s.direct 0x83FF 0) ∧
     s.cfg.hasConsole = true ∧ s.direct 0xC000 0 = 0xC000 ∧ s.console.connected = true ∧
     s.console.input = 0x12 :: 0x34 :: [0x56]) ∧
    ({ plain with console := { plain.console with input := [0x12] } } : State).console.input.length < 2 :=
  ⟨⟨by decide, .rmk, .rmp ⟨127, by decide⟩ (by decide), by decide, by decide, by decide, by decide⟩,
    ⟨by decide, ⟨(0x5300, 0x9FFF), by decide⟩, fun b hb => by cases hb⟩,
    ⟨rfl, fun b hb => by rw [List.mem_singleton.1 hb]; decide, rfl, rfl, rfl, rfl⟩, by decide⟩

theorem test_witness_ControlCommandResult :
    plain.ps = 0 ∧ Controls plain (plain.reg 1) (plain.direct 0x2000 0) { plain with mkr := plain.reg 1 } ∧
    plain.direct 0x200E 0 = 0x200E := ⟨by decide, .smk, by decide⟩

theorem test_witness_ConfigurationCommandResult :
    plain.ps = 0 ∧ Configures plain (plain.reg 1) (plain.direct 0x4003 0) { plain with mpen := true } ∧
    State.reset.ps = 0 ∧ Configures State.reset (State.reset.reg 1) (State.reset.direct 0x52FF 0)
      { State.reset with
        pro := State.reset.pro.set 15 (State.reset.pro[15].set 15 (State.reset.reg 1 &&& pageMask State.reset.cfg)) } ∧
    (∃ t, Configures plain (plain.reg 1) (plain.direct 0x03FF 0) t) ∧
    (∃ t, Configures plain (plain.reg 1) (plain.direct 0x4001 0) t) ∧
    (let s : State := { plain with cfg := { plain.cfg with ioCodes := [⟨0x7FFF, 1⟩] } }
     ∃ t, Configures s (s.reg 1) (s.direct 0x7FFF 0) t) ∧
    let s : State := { plain with console := { plain.console with connected := false } }
    Configures s (s.reg 1) (s.direct 0x4000 0) s :=
  ⟨by decide, .mpen (by decide), by decide, .wopr 15 15 (by decide) (by decide),
    ⟨_, .po 0x03FF (by decide) ⟨(0x0000, 0x1FFF), by decide⟩⟩, ⟨_, .clc (by decide)⟩,
    ⟨_, .spare 0x7FFF (by decide) (by decide) ⟨(0x5300, 0x9FFF), by decide⟩⟩, .coAlone (by decide) (by decide)⟩

theorem test_witness_IllegalCommandFaults :
    plain.ps = 0 ∧ ¬Implemented plain.cfg (plain.direct 0x3000 0) ∧ ¬Implemented plain.cfg (plain.direct 0x5100 0) ∧
    ¬Implemented plain.cfg (plain.direct 0x2006 0) ∧ Implemented plain.cfg (plain.direct 0x2005 0) ∧
    Implemented plain.cfg (plain.direct 0x0000 0) := by
  refine ⟨by decide, ?_, ?_, ?_, .inl ⟨(0x2000, 0x2005, true), by decide⟩,
    .inr (.inr ⟨(0, 0x1FFF), by decide⟩)⟩ <;> (unfold Implemented Answered; decide)

/-- A VIO of two commands: SMK of the first data word, RMK into the second (95_test_vectors.md, B.40, R275). -/
theorem test_witness_VectoredCommandResult :
    let s := start 0x0100 [(1, 0x8000)] [(0x0200, 0x2000), (0x0201, 0xC000), (0x0202, 0x0F0F)]
    s.ps = 0 ∧ s.Readable (s.direct 0x0200 0) 2 ∧
    ∃ t, VectorRun (s.wordAt (s.direct 0x0200 0)) (s.reg 1) (s.wordAt (s.direct 0x0200 0 + 1)) 0
      (s.direct 0x0200 0 + 2) { s with ic := s.ic + 2 } t :=
  ⟨by decide, by decide, _,
    .output .smk (by decide) (by decide) (by decide) rfl (by decide)
      (.input .rmk (by decide) (by decide) (by decide) rfl (by decide)
        (.skip (by decide) (by decide) (.skip (by decide) (by decide)
        (.skip (by decide) (by decide) (.skip (by decide) (by decide)
        (.skip (by decide) (by decide) (.skip (by decide) (by decide)
        (.skip (by decide) (by decide) (.skip (by decide) (by decide)
        (.skip (by decide) (by decide) (.skip (by decide) (by decide)
        (.skip (by decide) (by decide) (.skip (by decide) (by decide)
        (.skip (by decide) (by decide) (.skip (by decide) (by decide)
        (.done _ _))))))))))))))))⟩

/-- The three ways in which a VIO stops: an unimplemented command, a data word that cannot be read, one that cannot be
stored. -/
theorem test_witness_VectoredCommandStops :
    (let s := start 0x0100 [] [(0x0200, 0x2006), (0x0201, 0x8000)]
     s.ps = 0 ∧ s.Readable (s.direct 0x0200 0) 2 ∧
     VectorStops (s.wordAt (s.direct 0x0200 0)) (s.reg 1) (s.wordAt (s.direct 0x0200 0 + 1)) 0
      (s.direct 0x0200 0 + 2) { s with ic := s.ic + 2 } { s with ic := s.ic + 2 } .illegalCommand none) ∧
    (let s : State := { small with mem := Memory.setWord (Memory.setWord [] 0x0FFE 0x2000) 0x0FFF 0x8000 }
     s.ps = 0 ∧ s.Readable (s.direct 0x0FFE 0) 2 ∧
     VectorStops (s.wordAt (s.direct 0x0FFE 0)) (s.reg 1) (s.wordAt (s.direct 0x0FFE 0 + 1)) 0
      (s.direct 0x0FFE 0 + 2) { s with ic := s.ic + 2 } { s with ic := s.ic + 2 } .illegalAddress
      (some (s.operandRef 0x1000))) ∧
    let s : State := { small with mem := Memory.setWord (Memory.setWord [] 0x0FFE 0xA00F) 0x0FFF 0x8000 }
    VectorStops (s.wordAt (s.direct 0x0FFE 0)) (s.reg 1) (s.wordAt (s.direct 0x0FFE 0 + 1)) 0
      (s.direct 0x0FFE 0 + 2) { s with ic := s.ic + 2 } { s with ic := s.ic + 2 } .illegalAddress
      (some (s.operandRef 0x1000)) :=
  ⟨⟨by decide, by decide, .illegal (by decide) (by decide) (by unfold Implemented Answered; decide)⟩,
    ⟨by decide, by decide, .unreadable (by decide) (by decide) (by decide)
      (.inl ⟨(0x2000, 0x2005, true), by decide⟩) (by decide) (by decide)⟩,
    .unwritable (by decide) (by decide) (by decide) (.inl ⟨(0xA00E, 0xA00F, true), by decide⟩) (by decide)
      (by decide)⟩

end Sys2Proof.Tests
end

section
/-! SUPPORT. How a floating point result is written to its registers, CS and the pending interrupts
(46_add_subtract.md R430, R434), and what stays as it was where an operand is one that the standard does not allow
(93_implementation_defined.md U4; log 12). -/

namespace Sys2Proof.Claims

open Sys2Proof.Machine

/-! ### A result written -/

/-- The interrupt of a floating point result requested (00_scope.md R30). -/
theorem Leaves.requestFloat {s t : State} {ic : Word} {regs : Reg → Word} {cs : Nibble} {requests : Word}
    {stored : List (Nat × Word)} (h : Leaves s t ic regs cs requests stored) (r : FloatRequest) :
    Leaves s (t.requestFloat r) ic regs cs (requests ||| floatRequest r) stored := by
  cases r with
  | none => exact h.congr rfl (fun _ => rfl) rfl BitVec.or_zero.symm
  | overflow => exact h.requestIf true 3
  | underflow => exact h.requestIf true 6

/-- A floating point result in the pair, CS from it, its interrupt requested (46_add_subtract.md R430, R434). -/
theorem leaves_putFloat (s : State) (len : Word) (r : Reg) (v : FloatResult) :
    Leaves s ((s.advance len).putFloat r v) (s.ic + len) (putPair s r (packFloat v.value))
      (condition (packFloat v.value).toInt) (floatRequest v.request) [] :=
  ((((leaves_advance s len).setPair r _).setCs _).requestFloat v.request).congr rfl (fun _ => rfl) (csSign_eq _)
    BitVec.zero_or

/-- The same with a triple. -/
theorem leaves_putExtended (s : State) (len : Word) (r : Reg) (v : FloatResult) :
    Leaves s ((s.advance len).putExtended r v) (s.ic + len) (putTriple s r (packExtended v.value))
      (condition (packExtended v.value).toInt) (floatRequest v.request) [] :=
  ((((leaves_advance s len).setTriple r _).setCs _).requestFloat v.request).congr rfl (fun _ => rfl) (csSign_eq _)
    BitVec.zero_or

/-- Allowed operands: the result is written. -/
theorem floatWith_of_legal {op : Unpacked → Unpacked → FloatResult} {acc : Reg} {d : Double} {s : State}
    (ha : isLegalFloat (s.pair acc) = true) (hd : isLegalFloat d = true) :
    floatWith op acc d s = s.putFloat acc (op (unpackFloat (s.pair acc)) (unpackFloat d)) := by
  unfold floatWith; rw [ha, hd]; rfl

theorem extendedWith_of_legal {op : Unpacked → Unpacked → FloatResult} {acc : Reg} {d : Triple} {s : State}
    (ha : isLegalFloat (s.triple acc) = true) (hd : isLegalFloat d = true) :
    extendedWith op acc d s = s.putExtended acc (op (unpackExtended (s.triple acc)) (unpackExtended d)) := by
  unfold extendedWith; rw [ha, hd]; rfl

/-! ### An operand that the standard does not allow -/

/-- IC past the instruction, the registers of `result`, CS and interrupts 3, 4 and 6 open, and everything else as it
was (93_implementation_defined.md U4; log 12): what `Obligations.UnnormalizedOperandIsOpen` says of the state after. -/
def LeavesOpen (s : State) (len : Word) (result : List Reg) (t : State) : Prop :=
  t.ic = s.ic + len ∧ (∀ r, r ∉ result → t.reg r = s.reg r) ∧
    t.sw.extractLsb' 0 12 = s.sw.extractLsb' 0 12 ∧
    (∃ extra : Word, t.pir = s.pir ||| extra ∧ extra &&& ~~~(bitMask 3 ||| bitMask 4 ||| bitMask 6) = 0#16) ∧
    { t with ic := s.ic, regs := s.regs, sw := s.sw, pir := s.pir, freeCount := s.freeCount } = s

theorem leavesOpen_advance (s : State) (len : Word) : LeavesOpen s len [] (s.advance len) :=
  ⟨rfl, fun _ _ => rfl, rfl, ⟨0#16, BitVec.or_zero.symm, BitVec.zero_and⟩, rfl⟩

/-- One more register is open. -/
theorem LeavesOpen.openReg {s t : State} {len : Word} {result : List Reg} (h : LeavesOpen s len result t) (r : Reg) :
    LeavesOpen s len (result ++ [r]) (t.openReg r) := by
  obtain ⟨hic, hregs, hsw, hpir, hrest⟩ := h
  refine ⟨hic, fun q hq => ?_, hsw, hpir, hrest⟩
  rw [List.mem_append, List.mem_singleton, not_or] at hq
  calc (t.openReg r).reg q = if q = r then freeWord t.freeCount else t.reg q :=
        State.reg_setReg { t with freeCount := t.freeCount + 1 } r q (freeWord t.freeCount)
    _ = s.reg q := by rw [if_neg hq.2, hregs q hq.1]

/-- CS and the requests are open: what is requested is among interrupts 3, 4 and 6. -/
theorem LeavesOpen.openStatus {s t : State} {len : Word} {result : List Reg} (h : LeavesOpen s len result t) :
    LeavesOpen s len result t.openStatus := by
  obtain ⟨hic, hregs, hsw, ⟨extra, hpir, hextra⟩, hrest⟩ := h
  refine ⟨hic, hregs, (State.status_setCs t ((freeWord t.freeCount).extractLsb' 0 4)).trans hsw, ?_, hrest⟩
  refine ⟨extra ||| (freeWord (t.freeCount + 1) &&& openRequests), ?_, ?_⟩
  · rw [State.openStatus_pir, hpir, BitVec.or_assoc]
  · have hmask : openRequests &&& ~~~(bitMask 3 ||| bitMask 4 ||| bitMask 6) = 0#16 := by decide
    rw [BitVec.and_or_distrib_right, hextra, BitVec.and_assoc, hmask, BitVec.and_zero, BitVec.or_zero]

theorem LeavesOpen.openPair {s t : State} {len : Word} (h : LeavesOpen s len [] t) (r : Reg) :
    LeavesOpen s len [r, r + 1] (t.openPair r) :=
  ((h.openReg r).openReg (r + 1)).openStatus

theorem LeavesOpen.openTriple {s t : State} {len : Word} (h : LeavesOpen s len [] t) (r : Reg) :
    LeavesOpen s len [r, r + 1, r + 2] (t.openTriple r) :=
  (((h.openReg r).openReg (r + 1)).openReg (r + 2)).openStatus

theorem legal_and_eq_false {a b : Bool} (h : a = false ∨ b = false) : ¬(a && b) = true := by
  rw [Bool.not_eq_true, Bool.and_eq_false_iff]; exact h

theorem floatWith_of_illegal {op : Unpacked → Unpacked → FloatResult} {acc : Reg} {d : Double} {s : State}
    (h : isLegalFloat (s.pair acc) = false ∨ isLegalFloat d = false) : floatWith op acc d s = s.openPair acc :=
  if_neg (legal_and_eq_false h)

theorem extendedWith_of_illegal {op : Unpacked → Unpacked → FloatResult} {acc : Reg} {d : Triple} {s : State}
    (h : isLegalFloat (s.triple acc) = false ∨ isLegalFloat d = false) : extendedWith op acc d s = s.openTriple acc :=
  if_neg (legal_and_eq_false h)

theorem compareFloat_of_illegal {acc : Reg} {d : Double} {s : State}
    (h : isLegalFloat (s.pair acc) = false ∨ isLegalFloat d = false) : compareFloat acc d s = s.openStatus :=
  if_neg (legal_and_eq_false h)

theorem compareExtended_of_illegal {acc : Reg} {d : Triple} {s : State}
    (h : isLegalFloat (s.triple acc) = false ∨ isLegalFloat d = false) : compareExtended acc d s = s.openStatus :=
  if_neg (legal_and_eq_false h)

theorem floatOf_of_illegal {op : Unpacked → FloatResult} {ra : Reg} {d : Double} {s : State}
    (h : isLegalFloat d = false) : floatOf op ra d s = s.openPair ra :=
  if_neg (Bool.not_eq_true _ ▸ h)

theorem fixWord_of_illegal {ra : Reg} {d : Double} {s : State} (h : isLegalFloat d = false) :
    fixWord ra d s = (s.openReg ra).openStatus :=
  if_neg (Bool.not_eq_true _ ▸ h)

theorem fixPair_of_illegal {ra : Reg} {d : Triple} {s : State} (h : isLegalFloat d = false) :
    fixPair ra d s = s.openPair ra :=
  if_neg (Bool.not_eq_true _ ▸ h)

/-! ### The instructions on one operand -/

theorem exec_fabs (ra rb : Reg) (s : State) :
    exec (.fabs ra rb) s = .next (floatOf absFloat ra (s.reg rb ++ s.reg (rb + 1)) (s.advance 1)) := rfl

theorem exec_fneg (ra rb : Reg) (s : State) :
    exec (.fneg ra rb) s = .next (floatOf negFloat ra (s.reg rb ++ s.reg (rb + 1)) (s.advance 1)) := rfl

theorem exec_fix (ra rb : Reg) (s : State) :
    exec (.fix ra rb) s = .next (fixWord ra (s.reg rb ++ s.reg (rb + 1)) (s.advance 1)) := rfl

theorem exec_efix (ra rb : Reg) (s : State) :
    exec (.efix ra rb) s = .next (fixPair ra (s.reg rb ++ s.reg (rb + 1) ++ s.reg (rb + 2)) (s.advance 1)) := rfl

end Sys2Proof.Claims

open Sys2Proof Sys2Proof.Machine Sys2Proof.Claims

/-- Settles O46: each form is one operation on its operand, and on allowed operands that operation writes the result
of the arithmetic. -/
theorem floatResultWritten : Obligations.FloatResultWritten := by
  unfold Obligations.FloatResultWritten
  constructor
  · intro i op acc len q s form readable a ha hd r
    refine ⟨_, form.exec_eq readable, ?_⟩
    rw [floatWith_of_legal (s := s.advance len) ha hd]
    exact leaves_putFloat s len acc r
  · intro i op acc len q s form readable a ha hd r
    refine ⟨_, form.exec_eq readable, ?_⟩
    rw [extendedWith_of_legal (s := s.advance len) ha hd]
    exact leaves_putExtended s len acc r

/-- Settles O54: the operation of each form draws free values for its result registers, CS and the requests, and
nothing else. -/
theorem unnormalizedOperandIsOpen : Obligations.UnnormalizedOperandIsOpen := by
  unfold Obligations.UnnormalizedOperandIsOpen
  have start := leavesOpen_advance
  refine ⟨?arithmetic, ?extended, ?compare, ?compareExtended, ?oneOperand⟩
  case arithmetic =>
    intro i op acc len q s form readable h
    refine ⟨_, form.exec_eq readable, ?_⟩
    rw [floatWith_of_illegal (s := s.advance len) h]
    exact (start s len).openPair acc
  case extended =>
    intro i op acc len q s form readable h
    refine ⟨_, form.exec_eq readable, ?_⟩
    rw [extendedWith_of_illegal (s := s.advance len) h]
    exact (start s len).openTriple acc
  case compare =>
    intro i acc len q s form readable h
    refine ⟨_, form.exec_compareFloat readable, ?_⟩
    rw [compareFloat_of_illegal (s := s.advance len) h]
    exact (start s len).openStatus
  case compareExtended =>
    intro i acc len q s form readable h
    refine ⟨_, form.exec_compareExtended readable, ?_⟩
    rw [compareExtended_of_illegal (s := s.advance len) h]
    exact (start s len).openStatus
  case oneOperand =>
    intro ra rb s
    refine ⟨fun h => ⟨⟨_, exec_fabs ra rb s, ?_⟩, ⟨_, exec_fneg ra rb s, ?_⟩, ⟨_, exec_fix ra rb s, ?_⟩⟩,
      fun h => ⟨_, exec_efix ra rb s, ?_⟩⟩
    · rw [floatOf_of_illegal h]; exact (start s 1).openPair ra
    · rw [floatOf_of_illegal h]; exact (start s 1).openPair ra
    · rw [fixWord_of_illegal h]; exact ((start s 1).openReg ra).openStatus
    · rw [fixPair_of_illegal h]; exact (start s 1).openPair ra
end

section
/-! SUPPORT. What normalization does to a mantissa and to the value it stands for (00_scope.md R35, R36), for every
width. -/

namespace Sys2Proof.Claims

open Sys2Proof.Machine

/-! ### Powers of two -/

theorem twoPow_eq (n : Nat) : twoPow n = 2 ^ n := Int.natCast_pow 2 n

theorem twoPow_pos (n : Nat) : 0 < twoPow n := by rw [twoPow_eq]; positivity

theorem twoPow_add (a b : Nat) : twoPow (a + b) = twoPow a * twoPow b := by simp only [twoPow_eq, pow_add]

theorem twoPow_succ (n : Nat) : twoPow (n + 1) = 2 * twoPow n := by rw [twoPow_add, mul_comm]; rfl

theorem twoPow_le_twoPow {a b : Nat} (h : a ≤ b) : twoPow a ≤ twoPow b := by
  rw [twoPow_eq, twoPow_eq]; exact pow_le_pow_right₀ (by norm_num) h

theorem twoPow_pred {w : Nat} (hw : 2 ≤ w) : twoPow (w - 1) = 2 * twoPow (w - 2) := by
  rw [← twoPow_succ]; congr 1; omega

theorem twoPow_width {w : Nat} (hw : 2 ≤ w) : twoPow w = 4 * twoPow (w - 2) := by
  obtain ⟨k, rfl⟩ := Nat.exists_eq_add_of_le' hw
  rw [twoPow_succ, twoPow_succ, Nat.add_sub_cancel]; ring

/-- The shift that cuts off bits is the division that rounds downwards (00_scope.md R32). -/
theorem shiftRight_eq_fdiv (m : Int) (n : Nat) : Int.shiftRight m n = Int.fdiv m (twoPow n) := by
  rw [Int.fdiv_eq_ediv_of_nonneg _ (twoPow_pos n).le, twoPow_eq]
  exact Int.shiftRight_eq_div_pow m n

/-- A number between its quotient and the next, times the divisor. -/
theorem fdiv_twoPow_bounds (m : Int) (n : Nat) :
    Int.fdiv m (twoPow n) * twoPow n ≤ m ∧ m < (Int.fdiv m (twoPow n) + 1) * twoPow n := by
  rw [Int.fdiv_eq_ediv_of_nonneg _ (twoPow_pos n).le]
  exact ⟨Int.ediv_mul_le m (twoPow_pos n).ne', Int.lt_ediv_add_one_mul_self m (twoPow_pos n)⟩

/-! ### Mantissas -/

/-- A mantissa of `w` bits whose first two bits differ: the first part of `Normal` (00_scope.md R26). -/
def NormalMantissa (w : Nat) (m : Int) : Prop :=
  twoPow (w - 2) ≤ m ∧ m < twoPow (w - 1) ∨ -twoPow (w - 1) ≤ m ∧ m < -twoPow (w - 2)

/-- A mantissa that `w` bits hold (00_scope.md R25). -/
def FitsMantissa (w : Nat) (m : Int) : Prop := -twoPow (w - 1) ≤ m ∧ m < twoPow (w - 1)

/-- What the standard allows as an operand: the floating point zero or a normalized number (00_scope.md R31). -/
def Allowed (w : Nat) (u : Unpacked) : Prop := u = ⟨0, 0⟩ ∨ Normal w u

theorem normal_iff {w : Nat} {u : Unpacked} : Normal w u ↔ NormalMantissa w u.m ∧ -128 ≤ u.e ∧ u.e ≤ 127 := Iff.rfl

theorem NormalMantissa.fits {w : Nat} {m : Int} (h : NormalMantissa w m) : FitsMantissa w m := by
  have h1 := twoPow_pos (w - 1)
  have h2 := twoPow_pos (w - 2)
  unfold FitsMantissa
  rcases h with h | h <;> omega

theorem NormalMantissa.ne_zero {w : Nat} {m : Int} (h : NormalMantissa w m) : m ≠ 0 := by
  have h2 := twoPow_pos (w - 2)
  rcases h with h | h <;> omega

/-- A normalized mantissa stays where the loop tests it. -/
theorem NormalMantissa.not_small {w : Nat} {m : Int} (h : NormalMantissa w m) :
    ¬(-twoPow (w - 2) ≤ m ∧ m < twoPow (w - 2)) := by
  have h2 := twoPow_pos (w - 2)
  rcases h with h | h <;> omega

theorem FitsMantissa.normal_of_not_small {w : Nat} {m : Int} (h : FitsMantissa w m)
    (hm : ¬(-twoPow (w - 2) ≤ m ∧ m < twoPow (w - 2))) : NormalMantissa w m := by
  obtain ⟨hlo, hhi⟩ := h
  unfold NormalMantissa
  omega

theorem Allowed.fits {w : Nat} {u : Unpacked} (h : Allowed w u) : FitsMantissa w u.m := by
  rcases h with rfl | h
  · have h1 := twoPow_pos (w - 1)
    exact ⟨Int.neg_nonpos_of_nonneg h1.le, h1⟩
  · exact (normal_iff.1 h).1.fits

theorem Allowed.exponent {w : Nat} {u : Unpacked} (h : Allowed w u) : -128 ≤ u.e ∧ u.e ≤ 127 := by
  rcases h with rfl | h
  · decide
  · exact (normal_iff.1 h).2

theorem Allowed.eq_zero {w : Nat} {u : Unpacked} (h : Allowed w u) (hm : u.m = 0) : u = ⟨0, 0⟩ :=
  h.resolve_right fun hn => (normal_iff.1 hn).1.ne_zero hm

theorem Allowed.normalMantissa {w : Nat} {u : Unpacked} (h : Allowed w u) (hm : u.m ≠ 0) : NormalMantissa w u.m :=
  (normal_iff.1 (h.resolve_left fun hz => hm (by rw [hz]))).1

/-! ### The value of a number -/

theorem scaledValue_zero {u : Unpacked} (h : u.m = 0) : scaledValue u = 0 := by rw [scaledValue, h, zero_mul]

theorem scaledValue_neg_iff (u : Unpacked) : scaledValue u < 0 ↔ u.m < 0 := by
  rw [← not_le, ← not_le, scaledValue, mul_nonneg_iff_of_pos_right (twoPow_pos _)]

theorem scaledValue_eq_zero_iff (u : Unpacked) : scaledValue u = 0 ↔ u.m = 0 :=
  mul_eq_zero_iff_right (twoPow_pos _).ne'

/-- Doubling the mantissa makes up for the exponent: as many doublings as the exponent falls keep the value. -/
theorem scaledValue_doubled (u : Unpacked) {k : Nat} (h : -128 ≤ u.e - k) :
    scaledValue ⟨u.m * twoPow k, u.e - k⟩ = scaledValue u := by
  have he : (u.e + 128).toNat = k + (u.e - k + 128).toNat := by omega
  rw [scaledValue, scaledValue, he, twoPow_add, mul_assoc]

theorem scaledValue_succ_exponent (m : Int) {e : Int} (h : -128 ≤ e) :
    scaledValue ⟨m, e + 1⟩ = 2 * m * twoPow (e + 128).toNat := by
  have he : (e + 1 + 128).toNat = (e + 128).toNat + 1 := by omega
  rw [scaledValue, he, twoPow_succ]; ring

/-! ### Normalization -/

/-- A normalized number is reached by no doubling. -/
theorem exists_doublings_of_normal {w : Nat} {u : Unpacked} (h : NormalMantissa w u.m) :
    ∃ k : Nat, u = ⟨u.m * twoPow k, u.e - k⟩ ∧ NormalMantissa w (u.m * twoPow k) :=
  ⟨0, by simp [twoPow], by simpa [twoPow] using h⟩

/-- The loop, where the fuel is enough for the mantissa, doubles it until it is normalized. -/
theorem normalizeLoop_eq {w : Nat} (hw : 2 ≤ w) {fuel : Nat} {u : Unpacked} (fits : FitsMantissa w u.m)
    (enough : twoPow (w - 2) < |u.m| * twoPow fuel) :
    ∃ k : Nat, normalizeLoop fuel w u = ⟨u.m * twoPow k, u.e - k⟩ ∧ NormalMantissa w (u.m * twoPow k) := by
  induction fuel generalizing u with
  | zero =>
    rw [normalizeLoop]
    refine exists_doublings_of_normal (fits.normal_of_not_small fun hm => ?_)
    have habs : |u.m| ≤ twoPow (w - 2) := abs_le.2 ⟨hm.1, hm.2.le⟩
    have h1 : twoPow 0 = 1 := rfl
    rw [h1] at enough
    omega
  | succ fuel ih =>
    rw [normalizeLoop]
    split_ifs with hm
    · have hpred := twoPow_pred hw
      obtain ⟨k, heq, hnormal⟩ := ih (u := ⟨2 * u.m, u.e - 1⟩) ⟨by simp only; omega, by simp only; omega⟩
        (by rwa [abs_mul, abs_two, mul_assoc, mul_left_comm, ← twoPow_succ])
      have hmul : 2 * u.m * twoPow k = u.m * twoPow (k + 1) := by rw [twoPow_succ]; ring
      rw [hmul] at heq hnormal
      refine ⟨k + 1, ?_, hnormal⟩
      rw [heq]; congr 1; push_cast; ring
    · exact exists_doublings_of_normal (fits.normal_of_not_small hm)

/-- Normalization of a non-zero mantissa: doublings until it is normalized (00_scope.md R35). -/
theorem normalize_eq {w : Nat} (hw : 2 ≤ w) {u : Unpacked} (hm : u.m ≠ 0) (fits : FitsMantissa w u.m) :
    ∃ k : Nat, Machine.normalize w u = ⟨u.m * twoPow k, u.e - k⟩ ∧ NormalMantissa w (u.m * twoPow k) := by
  rw [Machine.normalize, if_neg hm]
  apply normalizeLoop_eq hw fits
  have h1 : 1 ≤ |u.m| := Int.one_le_abs hm
  have h2 := twoPow_pos (w - 2)
  rw [twoPow_width hw]
  nlinarith

theorem normalize_zero {w : Nat} {u : Unpacked} (hm : u.m = 0) : Machine.normalize w u = ⟨0, 0⟩ := if_pos hm

/-- Normalization leaves a normalized mantissa. -/
theorem normalize_of_normal {w : Nat} {u : Unpacked} (h : NormalMantissa w u.m) : Machine.normalize w u = u := by
  rw [Machine.normalize, if_neg h.ne_zero]
  cases w with
  | zero => rfl
  | succ w => rw [normalizeLoop, if_neg h.not_small]

section Normalized

variable {w : Nat} {u : Unpacked}

theorem normalMantissa_normalize (hw : 2 ≤ w) (hm : u.m ≠ 0) (fits : FitsMantissa w u.m) :
    NormalMantissa w (Machine.normalize w u).m := by
  obtain ⟨k, heq, hnormal⟩ := normalize_eq hw hm fits
  rw [heq]; exact hnormal

theorem normalize_exponent_le (hw : 2 ≤ w) (hm : u.m ≠ 0) (fits : FitsMantissa w u.m) :
    (Machine.normalize w u).e ≤ u.e := by
  obtain ⟨k, heq, -⟩ := normalize_eq hw hm fits
  rw [heq]; show u.e - k ≤ u.e; omega

/-- Normalization keeps the value, as long as the exponent stays in range. -/
theorem scaledValue_normalize (hw : 2 ≤ w) (hm : u.m ≠ 0) (fits : FitsMantissa w u.m)
    (he : -128 ≤ (Machine.normalize w u).e) : scaledValue (Machine.normalize w u) = scaledValue u := by
  obtain ⟨k, heq, -⟩ := normalize_eq hw hm fits
  rw [heq] at he ⊢
  exact scaledValue_doubled u he

/-- The exponent falls out of range exactly for the values below those of the normalized numbers (00_scope.md R30). -/
theorem normalize_underflows_iff (hw : 2 ≤ w) (hm : u.m ≠ 0) (fits : FitsMantissa w u.m) (he : -128 ≤ u.e) :
    (Machine.normalize w u).e < -128 ↔ -twoPow (w - 2) ≤ scaledValue u ∧ scaledValue u < twoPow (w - 2) := by
  have hpred := twoPow_pred hw
  obtain ⟨k, heq, hnormal⟩ := normalize_eq hw hm fits
  rw [heq]
  constructor
  · intro h
    obtain ⟨j, hk⟩ : ∃ j, k = (u.e + 128).toNat + (j + 1) := ⟨k - (u.e + 128).toNat - 1, by simp only at h; omega⟩
    obtain ⟨hlo, hhi⟩ := hnormal.fits
    have hmul : u.m * twoPow k = scaledValue u * (2 * twoPow j) := by
      rw [scaledValue, hk, twoPow_add, twoPow_succ, mul_assoc]
    have hj : 1 ≤ twoPow j := twoPow_pos j
    rw [hmul, hpred] at hlo hhi
    constructor <;> by_contra hc <;> nlinarith [twoPow_pos (w - 2)]
  · intro h
    by_contra hc
    have hv := scaledValue_doubled u (k := k) (not_lt.1 hc)
    have h1 : 1 ≤ twoPow (u.e - k + 128).toNat := twoPow_pos _
    have h2 := twoPow_pos (w - 2)
    rw [← hv, scaledValue] at h
    rcases hnormal with ⟨hlo, -⟩ | ⟨-, hhi⟩
    · nlinarith
    · nlinarith

end Normalized

end Sys2Proof.Claims
end

section
/-! SUPPORT. The sum, product and quotient rules of floating point arithmetic (46_add_subtract.md R433,
47_multiply_divide.md R484, R488) for every width of the mantissa. Each result is cut off downwards before it is
normalized, and what normalization has to shift is exact. -/

namespace Sys2Proof.Claims

open Sys2Proof.Machine

/-! ### The four cases of a rule -/

section Rule

variable {w : Nat} {overflows underflows negative : Prop} {v d : Int}

theorem floatRule_of_overflow {b : Bool} (ho : overflows) (hb : b = true ↔ negative) :
    FloatRule w overflows underflows negative v d (overflowResult w b) where
  largest _ hn := by rw [overflowResult, if_neg (mt hb.1 hn)]
  smallest _ hn := by rw [overflowResult, if_pos (hb.2 hn)]
  zero h := absurd ho h
  exact h := absurd ho h

theorem floatRule_of_underflow (ho : ¬overflows) (hu : underflows) :
    FloatRule w overflows underflows negative v d underflowResult where
  largest h := absurd h ho
  smallest h := absurd h ho
  zero _ _ := rfl
  exact _ h := absurd hu h

theorem floatRule_of_cutOff {u : Unpacked} (ho : ¬overflows) (hu : ¬underflows) (h : CutOff w v d u) :
    FloatRule w overflows underflows negative v d ⟨u, .none⟩ where
  largest h := absurd h ho
  smallest h := absurd h ho
  zero _ h := absurd h hu
  exact _ _ := ⟨rfl, h⟩

/-- Whatever the case, the result is normalized or zero (00_scope.md R30, R31). -/
theorem FloatRule.allowed {r : FloatResult} (hw : 2 ≤ w) (h : FloatRule w overflows underflows negative v d r) :
    Allowed w r.value := by
  have hpred := twoPow_pred hw
  have hpos := twoPow_pos (w - 2)
  by_cases ho : overflows
  · by_cases hn : negative
    · rw [h.smallest ho hn]
      exact .inr ⟨.inr ⟨le_rfl, by simp only; omega⟩, by norm_num⟩
    · rw [h.largest ho hn]
      exact .inr ⟨.inl ⟨by simp only; omega, by simp only; omega⟩, by norm_num⟩
  · by_cases hu : underflows
    · rw [h.zero ho hu]; exact .inl rfl
    · obtain ⟨-, ⟨-, hz⟩ | ⟨-, hnormal, -⟩⟩ := h.exact ho hu
      · exact .inl hz
      · exact .inr hnormal

end Rule

theorem cutOff_zero (w : Nat) (d : Int) : CutOff w 0 d ⟨0, 0⟩ := .inl ⟨rfl, rfl⟩

/-- A normalized number is its own value, nothing cut off. -/
theorem cutOff_of_exact {w : Nat} {d : Int} {r : Unpacked} (hd : 0 < d) (hr : Normal w r) :
    CutOff w (scaledValue r * d) d r := by
  refine .inr ⟨?_, hr, le_rfl, mul_lt_mul_of_pos_right ?_ hd⟩
  · exact mul_ne_zero (mt (scaledValue_eq_zero_iff r).1 (normal_iff.1 hr).1.ne_zero) hd.ne'
  · exact mul_lt_mul_of_pos_right (lt_add_one r.m) (twoPow_pos _)

/-! ### Finishing -/

section Finish

variable {w : Nat} {u : Unpacked}

theorem finishFloat_zero (hm : u.m = 0) : finishFloat w u = ⟨⟨0, 0⟩, .none⟩ := by
  rw [finishFloat, normalize_zero hm]; rfl

theorem finishFloat_of_normal (hm : NormalMantissa w u.m) (he : -128 ≤ u.e) : finishFloat w u = ⟨u, .none⟩ := by
  rw [finishFloat, normalize_of_normal hm]; exact if_neg (not_lt.2 he)

/-- An exact number finished: its normalized form, or the floating point zero below the normalized numbers
(00_scope.md R36). -/
theorem finishFloat_of_exact (hw : 2 ≤ w) (hm : u.m ≠ 0) (fits : FitsMantissa w u.m) (he : -128 ≤ u.e ∧ u.e ≤ 127) :
    (-twoPow (w - 2) ≤ scaledValue u ∧ scaledValue u < twoPow (w - 2)) ∧ finishFloat w u = underflowResult ∨
    ¬(-twoPow (w - 2) ≤ scaledValue u ∧ scaledValue u < twoPow (w - 2)) ∧
      ∃ r, finishFloat w u = ⟨r, .none⟩ ∧ Normal w r ∧ scaledValue r = scaledValue u := by
  rw [← normalize_underflows_iff hw hm fits he.1]
  by_cases h : (Machine.normalize w u).e < -128
  · exact .inl ⟨h, if_pos h⟩
  · refine .inr ⟨h, _, if_neg h, ?_, scaledValue_normalize hw hm fits (not_lt.1 h)⟩
    exact ⟨normalMantissa_normalize hw hm fits, not_lt.1 h, (normalize_exponent_le hw hm fits).trans he.2⟩

end Finish

/-! ### Sums and differences -/

/-- A sum is too large exactly where its exponent is 127 and its mantissa does not fit (46_add_subtract.md R433). -/
theorem sum_overflows_iff {w : Nat} (hw : 2 ≤ w) {u : Unpacked} (hm : -twoPow w ≤ u.m ∧ u.m < twoPow w)
    (he : -128 ≤ u.e ∧ u.e ≤ 127) :
    (twoPow (w + 254) ≤ scaledValue u ∨ scaledValue u < -twoPow (w + 254)) ↔
      u.e = 127 ∧ (u.m < -twoPow (w - 1) ∨ twoPow (w - 1) ≤ u.m) := by
  by_cases htop : u.e = 127
  · have hsplit : twoPow (w + 254) = twoPow (w - 1) * twoPow (u.e + 128).toNat := by
      rw [htop, ← twoPow_add]; congr 1; omega
    rw [hsplit, scaledValue, ← neg_mul, mul_le_mul_iff_left₀ (twoPow_pos _), mul_lt_mul_iff_left₀ (twoPow_pos _)]
    tauto
  · have hle : twoPow (u.e + 128).toNat ≤ twoPow 254 := twoPow_le_twoPow (by omega)
    have hpos := twoPow_pos (u.e + 128).toNat
    have hw' := twoPow_pos w
    rw [twoPow_add, scaledValue]
    refine iff_of_false (not_or.2 ⟨?_, ?_⟩) fun h => htop h.1
    · nlinarith
    · nlinarith

theorem halved_bounds (m : Int) : 2 * Int.shiftRight m 1 ≤ m ∧ m < 2 * (Int.shiftRight m 1 + 1) := by
  have h := fdiv_twoPow_bounds m 1
  rwa [← shiftRight_eq_fdiv, show twoPow 1 = 2 from rfl, mul_comm, mul_comm _ 2] at h

/-- A sum that the mantissa does not hold fits, normalized, when it is halved (46_add_subtract.md R433). -/
theorem normalMantissa_halved {w : Nat} (hw : 2 ≤ w) {m : Int} (hm : -twoPow w ≤ m ∧ m < twoPow w)
    (hbig : m < -twoPow (w - 1) ∨ twoPow (w - 1) ≤ m) : NormalMantissa w (Int.shiftRight m 1) := by
  obtain ⟨hlo, hhi⟩ := halved_bounds m
  rw [twoPow_width hw] at hm
  rw [twoPow_pred hw] at hbig
  rw [NormalMantissa, twoPow_pred hw]
  omega

/-- The exact sum of two mantissas with one exponent, settled (46_add_subtract.md R433). -/
theorem settleSum_rule {w : Nat} (hw : 2 ≤ w) {u : Unpacked} (hm : -twoPow w ≤ u.m ∧ u.m < twoPow w)
    (he : -128 ≤ u.e ∧ u.e ≤ 127) :
    let v := scaledValue u
    FloatRule w (twoPow (w + 254) ≤ v ∨ v < -twoPow (w + 254)) (v ≠ 0 ∧ -twoPow (w - 2) ≤ v ∧ v < twoPow (w - 2))
      (v < 0) v 1 (settleSum w u.m u.e) := by
  intro v
  have hoverflow := sum_overflows_iff hw hm he
  by_cases hbig : u.m < -twoPow (w - 1) ∨ twoPow (w - 1) ≤ u.m
  · have hnormal := normalMantissa_halved hw hm hbig
    obtain ⟨hlo, hhi⟩ := halved_bounds u.m
    simp only [settleSum, if_pos hbig]
    by_cases htop : u.e = 127
    · rw [if_pos (by omega)]
      refine floatRule_of_overflow (hoverflow.2 ⟨htop, hbig⟩) ?_
      rw [decide_eq_true_iff, scaledValue_neg_iff]
      omega
    · rw [if_neg (by omega), finishFloat_of_normal hnormal (by simp only; omega)]
      have hpred := twoPow_pred hw
      have hw2 := twoPow_pos (w - 2)
      have hscale : 1 ≤ twoPow (u.e + 128).toNat := twoPow_pos _
      have hne : v ≠ 0 := mt (scaledValue_eq_zero_iff u).1 (by omega)
      refine floatRule_of_cutOff (fun h => htop (hoverflow.1 h).1) ?_ (.inr ⟨hne, ⟨hnormal, ?_, ?_⟩, ?_, ?_⟩)
      · rintro ⟨-, hlow, hhigh⟩
        simp only [v, scaledValue] at hlow hhigh
        rcases hbig with h | h <;> nlinarith
      · simp only; omega
      · simp only; omega
      · rw [scaledValue_succ_exponent _ he.1, mul_one]
        exact mul_le_mul_of_nonneg_right hlo (by omega)
      · rw [scaledValue_succ_exponent _ he.1, mul_one]
        exact mul_lt_mul_of_pos_right hhi (by omega)
  · have hno : ¬(twoPow (w + 254) ≤ v ∨ v < -twoPow (w + 254)) := fun h => hbig (hoverflow.1 h).2
    have fits : FitsMantissa w u.m := ⟨by omega, by omega⟩
    simp only [settleSum, if_neg hbig]
    rw [if_neg (by omega)]
    by_cases hz : u.m = 0
    · have hv : v = 0 := scaledValue_zero hz
      rw [finishFloat_zero hz]
      exact floatRule_of_cutOff hno (fun h => h.1 hv) (hv ▸ cutOff_zero w 1)
    · rcases finishFloat_of_exact hw hz fits he with ⟨hu, heq⟩ | ⟨hu, r, heq, hnormal, hvalue⟩
      · rw [heq]
        exact floatRule_of_underflow hno ⟨mt (scaledValue_eq_zero_iff u).1 hz, hu⟩
      · rw [heq]
        have hcut := cutOff_of_exact one_pos hnormal
        rw [mul_one, hvalue] at hcut
        exact floatRule_of_cutOff hno (fun h => hu h.2) hcut

/-- The two mantissas put together with the sign of the operation: the `add` of `alignedSum`. -/
def combine (subtract : Bool) (x y : Int) : Int := if subtract then x - y else x + y

/-- What alignment answers: mantissas that fit and a common exponent, and combining them gives the value of the rule
(46_add_subtract.md R433). -/
structure Aligned (w : Nat) (a o : Unpacked) (ma mo e : Int) : Prop where
  /-- The first mantissa. -/
  first : FitsMantissa w ma
  /-- The second mantissa. -/
  second : FitsMantissa w mo
  /-- The exponent. -/
  exponent : -128 ≤ e ∧ e ≤ 127
  /-- The sum and the difference. -/
  value : ∀ subtract, alignedSum subtract a o = scaledValue ⟨combine subtract ma mo, e⟩

theorem scaledValue_combine (subtract : Bool) (x y e : Int) :
    scaledValue ⟨combine subtract x y, e⟩ = combine subtract (scaledValue ⟨x, e⟩) (scaledValue ⟨y, e⟩) := by
  unfold combine
  split_ifs
  · exact sub_mul x y _
  · exact add_mul x y _

/-- The sum or difference of two mantissas takes one bit more. -/
theorem combine_bounds {w : Nat} (hw : 2 ≤ w) (subtract : Bool) {x y : Int} (hx : FitsMantissa w x)
    (hy : FitsMantissa w y) : -twoPow w ≤ combine subtract x y ∧ combine subtract x y < twoPow w := by
  obtain ⟨hx1, hx2⟩ := hx
  obtain ⟨hy1, hy2⟩ := hy
  have hpred := twoPow_pred hw
  have hwidth := twoPow_width hw
  unfold combine
  split_ifs <;> omega

/-- Cutting off bits leaves a mantissa that fits. -/
theorem FitsMantissa.fdiv {w : Nat} {m : Int} (h : FitsMantissa w m) (n : Nat) :
    FitsMantissa w (Int.fdiv m (twoPow n)) := by
  obtain ⟨hlo, hhi⟩ := h
  obtain ⟨hle, hlt⟩ := fdiv_twoPow_bounds m n
  have hn : 1 ≤ twoPow n := twoPow_pos n
  have hw := twoPow_pos (w - 1)
  constructor <;> nlinarith

/-- Alignment of two numbers neither of which is zero: each mantissa is shifted to the greater exponent. -/
theorem alignFloat_of_ne_zero {a o : Unpacked} (ha : a.m ≠ 0) (ho : o.m ≠ 0) :
    alignFloat a o = (Int.fdiv a.m (twoPow (max a.e o.e - a.e).toNat), Int.fdiv o.m (twoPow (max a.e o.e - o.e).toNat),
      max a.e o.e) := by
  have unshifted : ∀ (m : Int) (n : Nat), n = 0 → Int.fdiv m (twoPow n) = m := by
    rintro m n rfl; exact Int.fdiv_one m
  rw [alignFloat]
  simp only [shiftRight_eq_fdiv]
  split_ifs with hgt hlt
  · rw [max_eq_left (by omega), unshifted a.m _ (by omega)]
  · rw [max_eq_right (by omega), unshifted o.m _ (by omega)]
    congr 4; omega
  · rw [max_eq_left (by omega), unshifted a.m _ (by omega), unshifted o.m _ (by omega)]

/-- Alignment leaves the other operand of a zero as it is. -/
theorem alignFloat_zero_left {w : Nat} {o : Unpacked} (ho : Allowed w o) : alignFloat ⟨0, 0⟩ o = (0, o.m, o.e) := by
  by_cases hm : o.m = 0
  · rw [ho.eq_zero hm]; rfl
  · simp only [alignFloat, shiftRight_eq_fdiv, Int.zero_fdiv, ne_eq, hm, not_true_eq_false, not_false_eq_true, if_true,
      if_false]
    split_ifs with hgt hlt
    · rfl
    · rfl
    · congr 2; omega

theorem alignFloat_zero_right {w : Nat} {a : Unpacked} (ha : Allowed w a) : alignFloat a ⟨0, 0⟩ = (a.m, 0, a.e) := by
  by_cases hm : a.m = 0
  · rw [ha.eq_zero hm]; rfl
  · simp only [alignFloat, shiftRight_eq_fdiv, Int.zero_fdiv, ne_eq, hm, not_true_eq_false, not_false_eq_true, if_true,
      if_false]
    split_ifs with hgt hlt
    · rfl
    · rfl
    · rfl

/-- Alignment of allowed operands. -/
theorem aligned_alignFloat {w : Nat} {a o : Unpacked} (ha : Allowed w a) (ho : Allowed w o) :
    Aligned w a o (alignFloat a o).1 (alignFloat a o).2.1 (alignFloat a o).2.2 := by
  by_cases hza : a.m = 0
  · obtain rfl := ha.eq_zero hza
    rw [alignFloat_zero_left ho]
    refine ⟨ha.fits, ho.fits, ho.exponent, fun subtract => ?_⟩
    rw [alignedSum, if_pos (.inl hza), scaledValue_combine, scaledValue_zero hza, scaledValue_zero (u := ⟨0, o.e⟩) rfl]
    rfl
  · by_cases hzo : o.m = 0
    · obtain rfl := ho.eq_zero hzo
      rw [alignFloat_zero_right ha]
      refine ⟨ha.fits, ho.fits, ha.exponent, fun subtract => ?_⟩
      rw [alignedSum, if_pos (.inr hzo), scaledValue_combine, scaledValue_zero hzo,
        scaledValue_zero (u := ⟨0, a.e⟩) rfl]
      rfl
    · have hae := ha.exponent
      have hoe := ho.exponent
      rw [alignFloat_of_ne_zero hza hzo]
      refine ⟨ha.fits.fdiv _, ho.fits.fdiv _, ⟨by simp only; omega, by simp only; omega⟩, fun subtract => ?_⟩
      rw [alignedSum, if_neg (not_or.2 ⟨hza, hzo⟩)]; rfl

/-- The rule of sums and differences from what alignment answers (46_add_subtract.md R433). -/
theorem settleSum_combine_rule {w : Nat} (hw : 2 ≤ w) (subtract : Bool) {a o : Unpacked} (ha : Allowed w a)
    (ho : Allowed w o) :
    SumRule w subtract a o
      (settleSum w (combine subtract (alignFloat a o).1 (alignFloat a o).2.1) (alignFloat a o).2.2) := by
  obtain ⟨first, second, exponent, value⟩ := aligned_alignFloat ha ho
  rw [SumRule, value subtract]
  exact settleSum_rule hw (u := ⟨_, _⟩) (combine_bounds hw subtract first second) exponent

theorem addFloat_rule {w : Nat} (hw : 2 ≤ w) {a o : Unpacked} (ha : Allowed w a) (ho : Allowed w o) :
    SumRule w false a o (addFloat w a o) := settleSum_combine_rule hw false ha ho

theorem subFloat_rule {w : Nat} (hw : 2 ≤ w) {a o : Unpacked} (ha : Allowed w a) (ho : Allowed w o) :
    SumRule w true a o (subFloat w a o) := settleSum_combine_rule hw true ha ho

end Sys2Proof.Claims
end

section
/-! SUPPORT. Packed floating point numbers: a pattern that the standard allows unpacks to a normalized number or zero,
and packing such a number loses nothing (00_scope.md R25, R26, R28, R31, R34). -/

namespace Sys2Proof.Claims

open Sys2Proof.Machine

/-- The first two bits of a number differ exactly where it is a normalized mantissa (00_scope.md R26). -/
theorem normalMantissa_toInt_iff {w : Nat} (hw : 2 ≤ w) (x : BitVec w) :
    NormalMantissa w x.toInt ↔ x.getMsbD 0 ≠ x.getMsbD 1 := by
  obtain ⟨k, rfl⟩ := Nat.exists_eq_add_of_le' hw
  have hdiv : x.toNat / 2 ^ (k + 1) = x.toNat / 2 ^ k / 2 := by rw [pow_succ, Nat.div_div_eq_div_mul]
  have hfirst : x.getMsbD 0 = decide (x.toNat / 2 ^ k / 2 % 2 = 1) := by
    rw [BitVec.getMsbD, ← hdiv, ← Nat.testBit_eq_decide_div_mod_eq]; simp [BitVec.getLsbD]
  have hsecond : x.getMsbD 1 = decide (x.toNat / 2 ^ k % 2 = 1) := by
    rw [BitVec.getMsbD, ← Nat.testBit_eq_decide_div_mod_eq]; simp [BitVec.getLsbD]
  have hlt := x.isLt
  have hpred : twoPow (k + 1) = 2 * ((2 ^ k : Nat) : Int) := by rw [twoPow_succ]; rfl
  have hsplit := Nat.div_add_mod x.toNat (2 ^ k)
  have hmod := Nat.mod_lt x.toNat (Nat.two_pow_pos k)
  have hcast : twoPow k = ((2 ^ k : Nat) : Int) := rfl
  rw [hfirst, hsecond, NormalMantissa, show k + 2 - 2 = k from rfl, show k + 2 - 1 = k + 1 from rfl, hpred, hcast,
    BitVec.toInt_eq_toNat_cond]
  have hquarter : x.toNat / 2 ^ k < 4 := by
    rw [Nat.div_lt_iff_lt_mul (Nat.two_pow_pos k)]; rw [pow_add] at hlt; omega
  rw [pow_add] at hlt ⊢
  generalize x.toNat / 2 ^ k = t at *
  generalize x.toNat % 2 ^ k = r at *
  generalize 2 ^ k = p at *
  interval_cases t <;> simp <;> omega

/-! ### Floating point -/

theorem getMsbD_mantissa (x : Double) {i : Nat} (hi : i < 24) : (x.extractLsb' 8 24).getMsbD i = x.getMsbD i := by
  rw [BitVec.getMsbD, BitVec.getMsbD, BitVec.getLsbD_extractLsb']
  simp only [decide_eq_true hi, decide_eq_true (show i < 32 by omega), Bool.true_and,
    decide_eq_true (show 24 - 1 - i < 24 by omega)]
  congr 1; omega

theorem exponent_bounds (e : Byte) : -128 ≤ e.toInt ∧ e.toInt ≤ 127 := by
  have hlo := BitVec.le_toInt (x := e)
  have hhi := BitVec.toInt_lt (x := e)
  norm_num at hlo hhi
  omega

/-- A normalized pattern unpacks to a normalized number (00_scope.md R26, R34). -/
theorem normal_unpackFloat_iff (x : Double) : Normal 24 (unpackFloat x) ↔ x.getMsbD 0 ≠ x.getMsbD 1 := by
  rw [normal_iff, unpackFloat, normalMantissa_toInt_iff (by decide), getMsbD_mantissa x (by decide),
    getMsbD_mantissa x (by decide)]
  exact and_iff_left (exponent_bounds _)

theorem isLegalFloat_iff {w : Nat} (x : BitVec w) : isLegalFloat x = true ↔ x = 0 ∨ x.getMsbD 0 ≠ x.getMsbD 1 := by
  rw [isLegalFloat, Bool.or_eq_true, beq_iff_eq, bne_iff_ne]

theorem allowed_unpackFloat {x : Double} (h : isLegalFloat x = true) : Allowed 24 (unpackFloat x) := by
  rcases (isLegalFloat_iff x).1 h with rfl | hbits
  · exact .inl (by decide)
  · exact .inr ((normal_unpackFloat_iff x).2 hbits)

theorem toInt_ofInt_mantissa {w : Nat} (hw : 2 ≤ w) {m : Int} (h : FitsMantissa w m) :
    (BitVec.ofInt w m).toInt = m := by
  obtain ⟨hlo, hhi⟩ := h
  rw [twoPow_eq] at hlo hhi
  exact BitVec.toInt_ofInt_eq_self (by omega) hlo hhi

theorem toInt_ofInt_exponent {e : Int} (h : -128 ≤ e ∧ e ≤ 127) : (BitVec.ofInt 8 e).toInt = e :=
  BitVec.toInt_ofInt_eq_self (by decide) (by norm_num; omega) (by norm_num; omega)

/-- Packing loses nothing (00_scope.md R34). -/
theorem unpackFloat_packFloat {u : Unpacked} (h : Allowed 24 u) : unpackFloat (packFloat u) = u := by
  rw [unpackFloat, packFloat, BitVec.extractLsb'_append_eq_left, BitVec.extractLsb'_append_eq_right,
    toInt_ofInt_mantissa (by decide) h.fits, toInt_ofInt_exponent h.exponent]

theorem isLegalFloat_packFloat {u : Unpacked} (h : Allowed 24 u) : isLegalFloat (packFloat u) = true := by
  rcases h with rfl | hnormal
  · decide
  · rw [← unpackFloat_packFloat (.inr hnormal)] at hnormal
    exact (isLegalFloat_iff _).2 (.inr ((normal_unpackFloat_iff _).1 hnormal))

/-! ### Extended floating point -/

theorem getMsbD_extendedMantissa (x : Triple) {i : Nat} (hi : i < 24) :
    (x.extractLsb' 24 24 ++ x.extractLsb' 0 16 : BitVec 40).getMsbD i = x.getMsbD i := by
  rw [BitVec.getMsbD, BitVec.getMsbD, BitVec.getLsbD_append, if_neg (by omega), BitVec.getLsbD_extractLsb']
  simp only [decide_eq_true (show i < 40 by omega), decide_eq_true (show i < 48 by omega), Bool.true_and,
    decide_eq_true (show 40 - 1 - i - 16 < 24 by omega)]
  congr 1; omega

theorem normal_unpackExtended_iff (x : Triple) : Normal 40 (unpackExtended x) ↔ x.getMsbD 0 ≠ x.getMsbD 1 := by
  rw [normal_iff, unpackExtended, normalMantissa_toInt_iff (by decide), getMsbD_extendedMantissa x (by decide),
    getMsbD_extendedMantissa x (by decide)]
  exact and_iff_left (exponent_bounds _)

theorem allowed_unpackExtended {x : Triple} (h : isLegalFloat x = true) : Allowed 40 (unpackExtended x) := by
  rcases (isLegalFloat_iff x).1 h with rfl | hbits
  · exact .inl (by decide)
  · exact .inr ((normal_unpackExtended_iff x).2 hbits)

/-- The three parts of an extended number, the exponent between those of the mantissa (00_scope.md R28). -/
theorem mantissa_of_parts (m : BitVec 40) (e : Byte) :
    ((m.extractLsb' 16 24 ++ e ++ m.extractLsb' 0 16 : Triple).extractLsb' 24 24 ++
      (m.extractLsb' 16 24 ++ e ++ m.extractLsb' 0 16 : Triple).extractLsb' 0 16 : BitVec 40) = m := by
  apply BitVec.eq_of_getLsbD_eq
  intro i hi
  simp only [BitVec.getLsbD_append, BitVec.getLsbD_extractLsb']
  by_cases hlow : i < 16
  · simp [hlow]
  · rw [if_neg hlow, if_neg (by omega), if_neg (by omega), decide_eq_true (by omega), decide_eq_true (by omega)]
    simp only [Bool.true_and]
    congr 1; omega

theorem exponent_of_parts (m : BitVec 40) (e : Byte) :
    (m.extractLsb' 16 24 ++ e ++ m.extractLsb' 0 16 : Triple).extractLsb' 16 8 = e := by
  apply BitVec.eq_of_getLsbD_eq
  intro i hi
  simp only [BitVec.getLsbD_append, BitVec.getLsbD_extractLsb']
  rw [if_neg (by omega), if_pos (by omega), decide_eq_true (by omega), Bool.true_and]
  congr 1; omega

theorem unpackExtended_packExtended {u : Unpacked} (h : Allowed 40 u) : unpackExtended (packExtended u) = u := by
  rw [unpackExtended, packExtended, mantissa_of_parts, exponent_of_parts, toInt_ofInt_mantissa (by decide) h.fits,
    toInt_ofInt_exponent h.exponent]

theorem isLegalFloat_packExtended {u : Unpacked} (h : Allowed 40 u) : isLegalFloat (packExtended u) = true := by
  rcases h with rfl | hnormal
  · decide
  · rw [← unpackExtended_packExtended (.inr hnormal)] at hnormal
    exact (isLegalFloat_iff _).2 (.inr ((normal_unpackExtended_iff _).1 hnormal))

end Sys2Proof.Claims
end

section
/-! SUPPORT. The product rule of floating point arithmetic (47_multiply_divide.md R484): the double-length product is
exact, and only its cut to the upper half loses bits. -/

namespace Sys2Proof.Claims

open Sys2Proof.Machine

/-- The sign of a forced result: that of the exact product or quotient, zero counted as positive. -/
theorem signsDiffer_iff (x y : Int) :
    (decide (x < 0) != decide (y < 0)) = true ↔ x < 0 ∧ 0 ≤ y ∨ 0 ≤ x ∧ y < 0 := by
  rw [bne_iff_ne, Ne, decide_eq_decide]; omega

theorem twoPow_doubleWidth {w : Nat} (hw : 2 ≤ w) :
    twoPow (2 * w - 1) = 2 * (twoPow (w - 1) * twoPow (w - 1)) ∧
      twoPow (2 * w - 2) = twoPow (w - 1) * twoPow (w - 1) ∧ twoPow (2 * w - 2) = twoPow (w - 2) * twoPow w := by
  refine ⟨?_, ?_, ?_⟩
  · rw [← twoPow_add, ← twoPow_succ]; congr 1; omega
  · rw [← twoPow_add]; congr 1; omega
  · rw [← twoPow_add]; congr 1; omega

/-- The double-length product fits, but for that of two mantissas of -1 (47_multiply_divide.md R484). -/
theorem fitsMantissa_product {w : Nat} (hw : 2 ≤ w) {x y : Int} (hx : FitsMantissa w x) (hy : FitsMantissa w y) :
    2 * x * y = twoPow (2 * w - 1) ∧ x = -twoPow (w - 1) ∧ y = -twoPow (w - 1) ∨
    2 * x * y ≠ twoPow (2 * w - 1) ∧ ¬(x = -twoPow (w - 1) ∧ y = -twoPow (w - 1)) ∧
      FitsMantissa (2 * w) (2 * x * y) := by
  obtain ⟨hdouble, -, -⟩ := twoPow_doubleWidth hw
  have hpos := twoPow_pos (w - 1)
  obtain ⟨hx1, hx2⟩ := hx
  obtain ⟨hy1, hy2⟩ := hy
  unfold FitsMantissa
  rw [hdouble]
  generalize twoPow (w - 1) = h at *
  by_cases hmin : x = -h ∧ y = -h
  · obtain ⟨rfl, rfl⟩ := hmin
    exact .inl ⟨by ring, rfl, rfl⟩
  · have hlt : x * y < h * h := by
      rcases lt_or_eq_of_le hx1 with hx1 | rfl
      · nlinarith
      · have hy1 : -h < y := lt_of_le_of_ne hy1 fun hc => hmin ⟨rfl, hc.symm⟩
        nlinarith
    have hge : -(h * h) ≤ x * y := by nlinarith
    exact .inr ⟨by nlinarith, hmin, by nlinarith, by nlinarith⟩

/-- The product of two values is that of the double-length product. -/
theorem scaledValue_mul {a o : Unpacked} (ha : -128 ≤ a.e) (ho : -128 ≤ o.e) (hn : -128 ≤ a.e + o.e) :
    scaledValue a * scaledValue o = scaledValue ⟨2 * a.m * o.m, a.e + o.e⟩ * twoPow 127 := by
  have hexp : twoPow (a.e + 128).toNat * twoPow (o.e + 128).toNat =
      2 * (twoPow (a.e + o.e + 128).toNat * twoPow 127) := by
    rw [← twoPow_add, ← twoPow_add, ← twoPow_succ]; congr 1; omega
  calc scaledValue a * scaledValue o
      = a.m * o.m * (twoPow (a.e + 128).toNat * twoPow (o.e + 128).toNat) := by simp only [scaledValue]; ring
    _ = scaledValue ⟨2 * a.m * o.m, a.e + o.e⟩ * twoPow 127 := by rw [hexp]; simp only [scaledValue]; ring

/-- The end of `settleProduct`, from the case of two mantissas of -1 and the overflow test on
(47_multiply_divide.md R484). -/
def cutProduct (w : Nat) (u : Unpacked) : FloatResult :=
  if (Machine.normalize (2 * w) u).e < -128 then underflowResult
  else ⟨⟨Int.shiftRight (Machine.normalize (2 * w) u).m w, (Machine.normalize (2 * w) u).e⟩, .none⟩

theorem settleProduct_of_max {w : Nat} {p n : Int} (h : p = twoPow (2 * w - 1)) :
    settleProduct w p n = if 127 < n + 1 then overflowResult w (decide (twoPow (2 * w - 2) < 0))
      else cutProduct w ⟨twoPow (2 * w - 2), n + 1⟩ := by
  simp only [settleProduct, if_pos h]; rfl

theorem settleProduct_of_ne {w : Nat} {p n : Int} (h : p ≠ twoPow (2 * w - 1)) (hn : n ≤ 127) :
    settleProduct w p n = cutProduct w ⟨p, n⟩ := by
  simp only [settleProduct, if_neg h, if_neg (not_lt.2 hn)]; rfl

/-- The upper half of a normalized double-length mantissa is normalized (47_multiply_divide.md R484). -/
theorem NormalMantissa.upperHalf {w : Nat} (hw : 2 ≤ w) {m : Int} (h : NormalMantissa (2 * w) m) :
    NormalMantissa w (Int.fdiv m (twoPow w)) := by
  obtain ⟨-, -, hhalf⟩ := twoPow_doubleWidth hw
  obtain ⟨hle, hlt⟩ := fdiv_twoPow_bounds m w
  have hpos := twoPow_pos w
  have hpred := twoPow_pred (show 2 ≤ 2 * w by omega)
  unfold NormalMantissa at h ⊢
  rw [hpred, hhalf] at h
  rw [twoPow_pred hw]
  generalize twoPow (w - 2) = q at *
  rcases h with ⟨hlo, hhi⟩ | ⟨hlo, hhi⟩
  · left; constructor <;> by_contra hc <;> nlinarith
  · right; constructor <;> by_contra hc <;> nlinarith

/-- The upper half stands for the double-length value cut off downwards. -/
theorem upperHalf_bounds (w : Nat) (r : Unpacked) :
    scaledValue ⟨Int.fdiv r.m (twoPow w), r.e⟩ * twoPow (w + 127) ≤ scaledValue r * twoPow 127 ∧
      scaledValue r * twoPow 127 < scaledValue ⟨Int.fdiv r.m (twoPow w) + 1, r.e⟩ * twoPow (w + 127) := by
  obtain ⟨hlo, hhi⟩ := fdiv_twoPow_bounds r.m w
  have regroup (q : Int) : scaledValue ⟨q, r.e⟩ * twoPow (w + 127) =
      q * twoPow w * (twoPow (r.e + 128).toNat * twoPow 127) := by
    rw [twoPow_add, scaledValue, mul_mul_mul_comm]
  rw [regroup, regroup, scaledValue, mul_assoc r.m]
  have hs := mul_pos (twoPow_pos (r.e + 128).toNat) (twoPow_pos 127)
  exact ⟨mul_le_mul_of_nonneg_right hlo hs.le, mul_lt_mul_of_pos_right hhi hs⟩

/-- The rule of a product from its double-length mantissa on, where neither test on the exponents has ended it. -/
theorem cutProduct_rule {w : Nat} (hw : 2 ≤ w) {u : Unpacked} {overflows below negative : Prop}
    (fits : FitsMantissa (2 * w) u.m) (he : -128 ≤ u.e ∧ u.e ≤ 127) (ho : ¬overflows) (hb : ¬below) :
    let v := scaledValue u * twoPow 127
    let d := twoPow (w + 127)
    FloatRule w overflows (below ∨ v ≠ 0 ∧ -twoPow (w - 2) * d ≤ v ∧ v < twoPow (w - 2) * d) negative v d
      (cutProduct w u) := by
  intro v d
  have h127 := twoPow_pos 127
  by_cases hm : u.m = 0
  · have hv : v = 0 := by simp only [v, scaledValue_zero hm, zero_mul]
    rw [cutProduct, normalize_zero hm, if_neg (by decide), hv, show Int.shiftRight 0 w = 0 by
      rw [shiftRight_eq_fdiv, Int.zero_fdiv]]
    exact floatRule_of_cutOff ho (by simpa using hb) (cutOff_zero w d)
  · have hv : v ≠ 0 := mul_ne_zero (mt (scaledValue_eq_zero_iff u).1 hm) h127.ne'
    have hscale : twoPow (w - 2) * d = twoPow (2 * w - 2) * twoPow 127 := by
      rw [(twoPow_doubleWidth hw).2.2, mul_assoc, show d = twoPow w * twoPow 127 from twoPow_add w 127]
    have hunder : (below ∨ v ≠ 0 ∧ -twoPow (w - 2) * d ≤ v ∧ v < twoPow (w - 2) * d) ↔
        (Machine.normalize (2 * w) u).e < -128 := by
      rw [normalize_underflows_iff (by omega) hm fits he.1, neg_mul, hscale, ← neg_mul, mul_le_mul_iff_left₀ h127,
        mul_lt_mul_iff_left₀ h127]
      tauto
    by_cases hlow : (Machine.normalize (2 * w) u).e < -128
    · rw [cutProduct, if_pos hlow]
      exact floatRule_of_underflow ho (hunder.2 hlow)
    · have hnormal := normalMantissa_normalize (by omega) hm fits
      have hle := normalize_exponent_le (by omega) hm fits
      have hvalue := scaledValue_normalize (by omega) hm fits (not_lt.1 hlow)
      rw [cutProduct, if_neg hlow, shiftRight_eq_fdiv]
      refine floatRule_of_cutOff ho (mt hunder.1 hlow)
        (.inr ⟨hv, ⟨hnormal.upperHalf hw, not_lt.1 hlow, hle.trans he.2⟩, ?_⟩)
      show _ ≤ scaledValue u * _ ∧ scaledValue u * _ < _
      rw [← hvalue]
      exact upperHalf_bounds w _

/-- The rule of products (47_multiply_divide.md R484). -/
theorem mulFloat_rule {w : Nat} (hw : 2 ≤ w) {a o : Unpacked} (ha : Allowed w a) (ho : Allowed w o) :
    ProductRule w a o (mulFloat w a o) := by
  have hae := ha.exponent
  have hoe := ho.exponent
  rw [ProductRule, mulFloat]
  by_cases htop : 127 < a.e + o.e
  · rw [if_pos htop]
    exact floatRule_of_overflow (.inl htop) (signsDiffer_iff a.m o.m)
  · by_cases hlow : a.e + o.e < -128
    · rw [if_neg htop, if_pos hlow]
      exact floatRule_of_underflow (by omega) (.inl hlow)
    · rw [if_neg htop, if_neg hlow, scaledValue_mul hae.1 hoe.1 (not_lt.1 hlow)]
      rcases fitsMantissa_product hw ha.fits ho.fits with ⟨hmax, hmin⟩ | ⟨hne, hmin, fits⟩
      · rw [settleProduct_of_max hmax]
        obtain ⟨hdouble, -, -⟩ := twoPow_doubleWidth hw
        have hpred := twoPow_pred (show 2 ≤ 2 * w by omega)
        have hpos := twoPow_pos (2 * w - 2)
        by_cases hlast : a.e + o.e = 127
        · have hneg : ¬(a.m < 0 ∧ 0 ≤ o.m ∨ 0 ≤ a.m ∧ o.m < 0) := by have := twoPow_pos (w - 1); omega
          rw [if_pos (by omega), decide_eq_false (not_lt.2 hpos.le)]
          exact floatRule_of_overflow (.inr ⟨hlast, hmin⟩) (iff_of_false Bool.false_ne_true hneg)
        · have hvalue : scaledValue ⟨2 * a.m * o.m, a.e + o.e⟩ = scaledValue ⟨twoPow (2 * w - 2), a.e + o.e + 1⟩ := by
            rw [scaledValue_succ_exponent _ (not_lt.1 hlow), ← hpred, ← hmax]; rfl
          rw [if_neg (by omega), hvalue]
          exact cutProduct_rule hw ⟨by simp only; omega, by simp only; omega⟩ ⟨by simp only; omega, by simp only; omega⟩
            (by omega) hlow
      · rw [settleProduct_of_ne hne (not_lt.1 htop)]
        exact cutProduct_rule hw fits ⟨not_lt.1 hlow, not_lt.1 htop⟩ (fun h => h.elim htop fun h => hmin h.2) hlow

end Sys2Proof.Claims
end

section
/-! SUPPORT. The quotient rule of floating point arithmetic (47_multiply_divide.md R488): the quotient of the mantissas
is cut off downwards to a normalized mantissa, or it is exactly -1/2 and normalization doubles it once. -/

namespace Sys2Proof.Claims

open Sys2Proof.Machine

/-- The mantissa of the dividend with the sign of the quotient. -/
def dividend (a o : Unpacked) : Int := if o.m < 0 then -a.m else a.m

/-- Dividing by the divisor is dividing the dividend, with the sign of the quotient, by the divisor's size. -/
theorem fdiv_eq_dividend_ediv (a o : Unpacked) (t : Int) :
    Int.fdiv (a.m * t) o.m = dividend a o * t / |o.m| := by
  unfold dividend
  split_ifs with hneg
  · rw [abs_of_neg hneg, ← Int.fdiv_eq_ediv_of_nonneg _ (by omega), neg_mul, Int.neg_fdiv_neg]
  · rw [abs_of_nonneg (not_lt.1 hneg), Int.fdiv_eq_ediv_of_nonneg _ (not_lt.1 hneg)]

theorem abs_dividend (a o : Unpacked) : |dividend a o| = |a.m| := by
  unfold dividend; split_ifs; exacts [abs_neg _, rfl]

theorem natAbs_le_natAbs_iff (a o : Unpacked) : o.m.natAbs ≤ a.m.natAbs ↔ |o.m| ≤ |dividend a o| := by
  rw [abs_dividend, Int.abs_eq_natAbs, Int.abs_eq_natAbs, Nat.cast_le]

theorem dividend_neg_iff {a o : Unpacked} (ha : a.m ≠ 0) :
    dividend a o < 0 ↔ a.m < 0 ∧ 0 ≤ o.m ∨ 0 ≤ a.m ∧ o.m < 0 := by
  unfold dividend; split_ifs <;> omega

theorem two_mul_dividend_iff (a o : Unpacked) : 2 * dividend a o = -|o.m| ↔ 2 * a.m = -o.m := by
  unfold dividend
  split_ifs with hneg
  · rw [abs_of_neg hneg]; omega
  · rw [abs_of_nonneg (not_lt.1 hneg)]

/-- The sizes of the operands of a quotient: the dividend `x`, with the sign of the quotient, and the size `b` of the
divisor are those of normalized mantissas, and the quotient stays below 2. -/
structure QuotientOperands (w : Nat) (x b : Int) : Prop where
  /-- The divisor. -/
  divisor : twoPow (w - 2) ≤ b ∧ b ≤ twoPow (w - 1)
  /-- The dividend. -/
  dividend : twoPow (w - 2) ≤ |x| ∧ |x| ≤ twoPow (w - 1)
  /-- A quotient of 2 has the least divisor, which is positive, and then the dividend is -1. -/
  belowTwo : x < 2 * b

theorem quotientOperands {w : Nat} (hw : 2 ≤ w) {a o : Unpacked} (ha : NormalMantissa w a.m)
    (ho : NormalMantissa w o.m) : QuotientOperands w (dividend a o) |o.m| := by
  have hpred := twoPow_pred hw
  have size : ∀ {m : Int}, NormalMantissa w m → twoPow (w - 2) ≤ |m| ∧ |m| ≤ twoPow (w - 1) := by
    intro m hm
    rcases hm with ⟨hlo, hhi⟩ | ⟨hlo, hhi⟩
    · have hpos := twoPow_pos (w - 2)
      rw [abs_of_nonneg (by omega)]; omega
    · have hpos := twoPow_pos (w - 2)
      rw [abs_of_neg (by omega)]; omega
  refine ⟨size ho, (abs_dividend a o).symm ▸ size ha, ?_⟩
  obtain ⟨halo, hahi⟩ := ha.fits
  have hpos := twoPow_pos (w - 2)
  unfold dividend
  split_ifs with hneg
  · rw [abs_of_neg hneg]
    rcases ho with h | h <;> omega
  · rw [abs_of_nonneg (not_lt.1 hneg)]
    rcases ho with h | h <;> omega

/-- By how many bits the dividend is shifted before the division: one less where it is not smaller than the divisor,
so that the quotient is below 1 (47_multiply_divide.md R488). -/
def quotientShift (w : Nat) (x b : Int) : Nat := if b ≤ |x| then w - 2 else w - 1

/-- The mantissa of a quotient, before normalization (47_multiply_divide.md R488). -/
def quotientMantissa (w : Nat) (x b : Int) : Int := x * twoPow (quotientShift w x b) / b

section Mantissa

variable {w : Nat} {x b : Int}

theorem QuotientOperands.divisor_pos (h : QuotientOperands w x b) : 0 < b := (twoPow_pos _).trans_le h.divisor.1

/-- The quotient is cut off downwards (00_scope.md R32). -/
theorem quotientMantissa_bounds (hb : 0 < b) :
    quotientMantissa w x b * b ≤ x * twoPow (quotientShift w x b) ∧
      x * twoPow (quotientShift w x b) < (quotientMantissa w x b + 1) * b :=
  ⟨Int.ediv_mul_le _ hb.ne', Int.lt_ediv_add_one_mul_self _ hb⟩

theorem quotientMantissa_neg_iff (hb : 0 < b) : quotientMantissa w x b < 0 ↔ x < 0 := by
  rw [quotientMantissa, Int.ediv_lt_iff_lt_mul hb, zero_mul, ← not_le, ← not_le,
    mul_nonneg_iff_of_pos_right (twoPow_pos _)]

/-- The mantissa of a quotient is normalized, or it is exactly -1/2 (00_scope.md R26, 47_multiply_divide.md R488). -/
theorem quotientMantissa_normal_or_half (hw : 2 ≤ w) (h : QuotientOperands w x b) :
    NormalMantissa w (quotientMantissa w x b) ∧ x * twoPow (quotientShift w x b) ≠ -twoPow (w - 2) * b ∨
    quotientMantissa w x b = -twoPow (w - 2) ∧ x * twoPow (quotientShift w x b) = -twoPow (w - 2) * b := by
  have hb := h.divisor_pos
  obtain ⟨⟨hb1, hb2⟩, ⟨hx1, hx2⟩, htwo⟩ := h
  have hpred := twoPow_pred hw
  have hpos := twoPow_pos (w - 2)
  by_cases hhalf : x * twoPow (quotientShift w x b) = -twoPow (w - 2) * b
  · right
    rw [quotientMantissa, hhalf]
    exact ⟨Int.mul_ediv_cancel _ hb.ne', rfl⟩
  · refine .inl ⟨?_, hhalf⟩
    rw [NormalMantissa, quotientMantissa, Int.le_ediv_iff_mul_le hb, Int.ediv_lt_iff_lt_mul hb,
      Int.le_ediv_iff_mul_le hb, Int.ediv_lt_iff_lt_mul hb, hpred]
    unfold quotientShift at hhalf ⊢
    rcases le_or_gt 0 x with hx | hx
    · left
      rw [abs_of_nonneg hx] at *
      split_ifs with hge
      · constructor <;> nlinarith
      · rw [hpred]; constructor <;> nlinarith
    · right
      rw [abs_of_neg hx] at *
      refine ⟨?_, lt_of_le_of_ne ?_ hhalf⟩
      · split_ifs with hge
        · nlinarith
        · rw [hpred]; nlinarith
      · split_ifs with hge
        · nlinarith
        · rw [hpred]; nlinarith

end Mantissa

/-- The exponent that goes with `quotientMantissa`: one more where the dividend is shifted by one bit less. -/
def quotientExponent (a o : Unpacked) : Int :=
  if |o.m| ≤ |dividend a o| then a.e - o.e + 1 else a.e - o.e

/-- The quotient where neither test on the difference of the exponents ends the division
(47_multiply_divide.md R488). -/
theorem divFloat_of_inRange {w : Nat} {a o : Unpacked} (hn : ¬(127 < a.e - o.e ∨ o.m = 0)) (hlow : ¬a.e - o.e < -128) :
    divFloat w a o =
      let q := quotientMantissa w (dividend a o) |o.m|
      if 127 < quotientExponent a o then overflowResult w (decide (q < 0))
      else finishFloat w ⟨q, quotientExponent a o⟩ := by
  rw [divFloat, quotientMantissa, quotientShift, quotientExponent]
  simp only [if_neg hn, if_neg hlow, fdiv_eq_dividend_ediv, natAbs_le_natAbs_iff]
  split_ifs <;> rfl

/-- The exact quotient in the scale of `scaledValue`, its divisor's scale multiplied out: the numerator that
`QuotientRule` names. -/
theorem quotientValue_eq {w : Nat} (hw : 2 ≤ w) {a o : Unpacked} (ha : -128 ≤ a.e) (ho : -128 ≤ o.e)
    (he : -128 ≤ quotientExponent a o) :
    (if o.m < 0 then -scaledValue a else scaledValue a) * twoPow (w + 127) =
      dividend a o * twoPow (quotientShift w (dividend a o) |o.m|) *
        (twoPow (quotientExponent a o + 128).toNat * twoPow (o.e + 128).toNat) := by
  have hsign : (if o.m < 0 then -scaledValue a else scaledValue a) = dividend a o * twoPow (a.e + 128).toNat := by
    unfold dividend scaledValue
    split_ifs
    · rw [neg_mul]
    · rfl
  have hexp : twoPow (a.e + 128).toNat * twoPow (w + 127) =
      twoPow (quotientShift w (dividend a o) |o.m|) *
        (twoPow (quotientExponent a o + 128).toNat * twoPow (o.e + 128).toNat) := by
    rw [← twoPow_add, ← twoPow_add, ← twoPow_add]
    congr 1
    unfold quotientExponent at he ⊢
    unfold quotientShift
    split_ifs at he ⊢ <;> omega
  rw [hsign, mul_assoc, hexp, mul_assoc]

theorem natAbs_scaledValue (o : Unpacked) :
    ((scaledValue o).natAbs : Int) = |o.m| * twoPow (o.e + 128).toNat := by
  rw [Int.natCast_natAbs, scaledValue, abs_mul, abs_of_pos (twoPow_pos _)]

/-- The exponent falls below -128 exactly where it is -128 and the mantissas divide to -1/2
(47_multiply_divide.md R488). -/
theorem quotient_underflows_iff {w : Nat} (hw : 2 ≤ w) {a o : Unpacked}
    (h : QuotientOperands w (dividend a o) |o.m|) (hlow : ¬a.e - o.e < -128) :
    (a.e - o.e < -128 ∨ a.e - o.e = -128 ∧ 2 * a.m = -o.m) ↔
      quotientExponent a o = -128 ∧
        dividend a o * twoPow (quotientShift w (dividend a o) |o.m|) = -twoPow (w - 2) * |o.m| := by
  have hb := h.divisor_pos
  have hpos := twoPow_pos (w - 2)
  have hcancel : dividend a o * twoPow (w - 1) = -twoPow (w - 2) * |o.m| ↔ 2 * dividend a o = -|o.m| := by
    rw [twoPow_pred hw, ← mul_right_inj' hpos.ne' (b := 2 * dividend a o)]
    constructor <;> intro h <;> linarith
  rw [← two_mul_dividend_iff]
  unfold quotientExponent quotientShift
  split_ifs with hge
  · have hne : 2 * dividend a o ≠ -|o.m| := by
      intro h2
      have hneg : dividend a o < 0 := by omega
      rw [abs_of_neg hneg] at hge
      omega
    exact iff_of_false (by tauto) (by omega)
  · rw [hcancel]; tauto

/-- A doubled scale: the exponent -128 is the only one whose scale is 1. -/
theorem two_le_scale {e : Int} (h : -128 < e) : 2 ≤ twoPow (e + 128).toNat :=
  twoPow_le_twoPow (a := 1) (by omega)

/-- The quotient of a zero dividend is zero (47_multiply_divide.md R488). -/
theorem divFloat_zero {w : Nat} {a o : Unpacked} (hza : a.m = 0) (hn : ¬(127 < a.e - o.e ∨ o.m = 0))
    (hlow : ¬a.e - o.e < -128) : divFloat w a o = ⟨⟨0, 0⟩, .none⟩ := by
  obtain ⟨htop, hzo⟩ := not_or.1 hn
  have hx : dividend a o = 0 := by unfold dividend; split_ifs <;> omega
  have hexp : quotientExponent a o = a.e - o.e := by
    rw [quotientExponent, hx, abs_zero, if_neg (not_le.2 (abs_pos.2 hzo))]
  rw [divFloat_of_inRange hn hlow, hexp, hx, quotientMantissa, zero_mul, Int.zero_ediv]
  simp only [if_neg htop]
  exact finishFloat_zero rfl

/-- The rule of a quotient that has an exponent in range: the mantissa is cut off and normalized, or exactly -1/2 and
doubled (47_multiply_divide.md R488). -/
theorem finishQuotient_rule {w : Nat} (hw : 2 ≤ w) {a o : Unpacked} {overflows negative : Prop}
    (h : QuotientOperands w (dividend a o) |o.m|) (ha : -128 ≤ a.e) (ho : -128 ≤ o.e) (hlow : ¬a.e - o.e < -128)
    (he : -128 ≤ quotientExponent a o ∧ quotientExponent a o ≤ 127) (hover : ¬overflows) :
    FloatRule w overflows (a.e - o.e < -128 ∨ a.e - o.e = -128 ∧ 2 * a.m = -o.m) negative
      ((if o.m < 0 then -scaledValue a else scaledValue a) * twoPow (w + 127)) (scaledValue o).natAbs
      (finishFloat w ⟨quotientMantissa w (dividend a o) |o.m|, quotientExponent a o⟩) := by
  have hunder := quotient_underflows_iff hw h hlow
  obtain ⟨hlo, hhi⟩ := quotientMantissa_bounds (w := w) (x := dividend a o) h.divisor_pos
  have hscales := mul_pos (twoPow_pos (quotientExponent a o + 128).toNat) (twoPow_pos (o.e + 128).toNat)
  have regroup (q : Int) : scaledValue ⟨q, quotientExponent a o⟩ * (|o.m| * twoPow (o.e + 128).toNat) =
      q * |o.m| * (twoPow (quotientExponent a o + 128).toNat * twoPow (o.e + 128).toNat) :=
    mul_mul_mul_comm ..
  rw [quotientValue_eq hw ha ho he.1, natAbs_scaledValue]
  rcases quotientMantissa_normal_or_half hw h with ⟨hnormal, hne⟩ | ⟨hq, hhalf⟩
  · have hx : dividend a o ≠ 0 := abs_pos.1 ((twoPow_pos (w - 2)).trans_le h.dividend.1)
    rw [finishFloat_of_normal hnormal he.1]
    refine floatRule_of_cutOff hover (fun hu => hne (hunder.1 hu).2) (.inr ⟨?_, ⟨hnormal, he⟩, ?_, ?_⟩)
    · exact mul_ne_zero (mul_ne_zero hx (twoPow_pos _).ne') hscales.ne'
    · rw [regroup]; exact mul_le_mul_of_nonneg_right hlo hscales.le
    · rw [regroup]; exact mul_lt_mul_of_pos_right hhi hscales
  · have hpos := twoPow_pos (w - 2)
    have fits : FitsMantissa w (-twoPow (w - 2)) := by
      have hpred := twoPow_pred hw
      exact ⟨by omega, by omega⟩
    rw [hhalf, hq, ← regroup]
    rw [hhalf] at hunder
    rcases finishFloat_of_exact (u := ⟨-twoPow (w - 2), quotientExponent a o⟩) hw (neg_ne_zero.2 hpos.ne') fits he with
      ⟨⟨hu, -⟩, heq⟩ | ⟨hu, r, heq, hr, hvalue⟩
    · have hlast : quotientExponent a o = -128 := by
        by_contra hc
        have := two_le_scale (lt_of_le_of_ne he.1 (Ne.symm hc))
        simp only [scaledValue] at hu
        nlinarith
      rw [heq]
      exact floatRule_of_underflow hover (hunder.2 ⟨hlast, rfl⟩)
    · have hnot : quotientExponent a o ≠ -128 := by
        intro hc
        rw [hc, show scaledValue ⟨-twoPow (w - 2), -128⟩ = -twoPow (w - 2) from mul_one _] at hu
        exact hu ⟨le_rfl, by omega⟩
      rw [heq, ← hvalue]
      exact floatRule_of_cutOff hover (fun hu => hnot (hunder.1 hu).1)
        (cutOff_of_exact (mul_pos h.divisor_pos (twoPow_pos _)) hr)

/-- The rule of quotients (47_multiply_divide.md R488). -/
theorem divFloat_rule {w : Nat} (hw : 2 ≤ w) {a o : Unpacked} (ha : Allowed w a) (ho : Allowed w o) :
    QuotientRule w a o (divFloat w a o) := by
  have hae := ha.exponent
  have hoe := ho.exponent
  rw [QuotientRule]
  by_cases hn : 127 < a.e - o.e ∨ o.m = 0
  · rw [divFloat, if_pos hn]
    exact floatRule_of_overflow (by tauto) (signsDiffer_iff a.m o.m)
  · obtain ⟨htop, hzo⟩ := not_or.1 hn
    by_cases hlow : a.e - o.e < -128
    · rw [divFloat, if_neg hn, if_pos hlow]
      exact floatRule_of_underflow (by omega) (.inl hlow)
    · by_cases hza : a.m = 0
      · rw [divFloat_zero hza hn hlow, scaledValue_zero hza]
        refine floatRule_of_cutOff (by omega) (by omega) ?_
        rw [neg_zero, ite_self, zero_mul]
        exact cutOff_zero w _
      · have operands := quotientOperands hw (ha.normalMantissa hza) (ho.normalMantissa hzo)
        have htoo : 127 < quotientExponent a o ↔ a.e - o.e = 127 ∧ o.m.natAbs ≤ a.m.natAbs := by
          rw [natAbs_le_natAbs_iff]; unfold quotientExponent; split_ifs <;> omega
        rw [divFloat_of_inRange hn hlow]
        by_cases hbig : 127 < quotientExponent a o
        · simp only [if_pos hbig]
          refine floatRule_of_overflow (.inr (.inr (htoo.1 hbig))) ?_
          rw [decide_eq_true_iff, quotientMantissa_neg_iff operands.divisor_pos, dividend_neg_iff hza]
        · simp only [if_neg hbig]
          have hmin : -128 ≤ quotientExponent a o := by unfold quotientExponent; split_ifs <;> omega
          exact finishQuotient_rule hw operands hae.1 hoe.1 hlow ⟨hmin, not_lt.1 hbig⟩
            (not_or.2 ⟨htop, not_or.2 ⟨hzo, mt htoo.2 hbig⟩⟩)

end Sys2Proof.Claims
end

section
/-! SUPPORT. The statements about the values of floating point arithmetic, from the rules for every width of the
mantissa. -/

namespace Sys2Proof.Claims

open Sys2Proof.Machine

/-- The result of each operation on allowed operands is allowed, by the rule of the operation (00_scope.md R30). -/
theorem allowed_of_mem_operations {w : Nat} (hw : 2 ≤ w) {a o : Unpacked} (ha : Allowed w a) (ho : Allowed w o)
    {op : Unpacked → Unpacked → FloatResult} (hop : op ∈ [addFloat w, subFloat w, mulFloat w, divFloat w]) :
    Allowed w (op a o).value := by
  simp only [List.mem_cons, List.not_mem_nil, or_false] at hop
  rcases hop with rfl | rfl | rfl | rfl
  · exact (addFloat_rule hw ha ho).allowed hw
  · exact (subFloat_rule hw ha ho).allowed hw
  · exact (mulFloat_rule hw ha ho).allowed hw
  · exact (divFloat_rule hw ha ho).allowed hw

end Sys2Proof.Claims

open Sys2Proof Sys2Proof.Machine Sys2Proof.Claims

/-- Settles O48, from the rule of a settled sum and the values that alignment leaves. -/
theorem floatSumIsAlignedSumCutOff : Obligations.FloatSumIsAlignedSumCutOff := by
  unfold Obligations.FloatSumIsAlignedSumCutOff
  constructor
  · intro a d ha hd
    exact ⟨addFloat_rule (by decide) (allowed_unpackFloat ha) (allowed_unpackFloat hd),
      subFloat_rule (by decide) (allowed_unpackFloat ha) (allowed_unpackFloat hd)⟩
  · intro a d ha hd
    exact ⟨addFloat_rule (by decide) (allowed_unpackExtended ha) (allowed_unpackExtended hd),
      subFloat_rule (by decide) (allowed_unpackExtended ha) (allowed_unpackExtended hd)⟩

/-- Settles O49: the double-length product is exact, and its upper half is cut off. -/
theorem floatProductIsExactProductCutOff : Obligations.FloatProductIsExactProductCutOff := by
  unfold Obligations.FloatProductIsExactProductCutOff
  constructor
  · intro a d ha hd
    exact mulFloat_rule (by decide) (allowed_unpackFloat ha) (allowed_unpackFloat hd)
  · intro a d ha hd
    exact mulFloat_rule (by decide) (allowed_unpackExtended ha) (allowed_unpackExtended hd)

/-- Settles O50: the quotient of the mantissas is cut off to a normalized one, or is exactly -1/2. -/
theorem floatQuotientIsExactQuotientCutOff : Obligations.FloatQuotientIsExactQuotientCutOff := by
  unfold Obligations.FloatQuotientIsExactQuotientCutOff
  constructor
  · intro a d ha hd
    exact divFloat_rule (by decide) (allowed_unpackFloat ha) (allowed_unpackFloat hd)
  · intro a d ha hd
    exact divFloat_rule (by decide) (allowed_unpackExtended ha) (allowed_unpackExtended hd)

/-- Settles O47: results are normalized or zero by the rules of the operations, and packing keeps such numbers. -/
theorem floatResultsAreNormalized : Obligations.FloatResultsAreNormalized := by
  unfold Obligations.FloatResultsAreNormalized
  constructor
  · intro a d ha hd op hop
    have h := allowed_of_mem_operations (by decide) (allowed_unpackFloat ha) (allowed_unpackFloat hd) hop
    exact ⟨isLegalFloat_packFloat h, unpackFloat_packFloat h⟩
  · intro a d ha hd op hop
    have h := allowed_of_mem_operations (by decide) (allowed_unpackExtended ha) (allowed_unpackExtended hd) hop
    exact ⟨isLegalFloat_packExtended h, unpackExtended_packExtended h⟩
end

section
/-! SUPPORT. The words of main memory after a word is stored, the cells it may list, and its form: reading alike is
being the same. -/

namespace Sys2Proof.Machine

/-- A word stored reads back, and every other word reads as before. -/
theorem Memory.word_setWord (m : Memory) (pa pb : Nat) (w : Word) :
    Memory.word (Memory.setWord m pa w) pb = if pb = pa then w else Memory.word m pb := by
  unfold Memory.word
  simp only [Memory.byte_setWord]
  by_cases h : pb = pa
  · subst h
    rw [if_pos rfl, if_neg (by omega), if_pos rfl, if_pos rfl]
    exact BitVec.extractLsb'_append_extractLsb' (w := 8) (len := 8)
  · rw [if_neg (by omega), if_neg (by omega), if_neg (by omega), if_neg (by omega), if_neg h]

theorem Memory.wfFrom_cons {lo k : Nat} {v : Byte} {rest : Memory} :
    Memory.wfFrom lo ((k, v) :: rest) = true ↔
      lo ≤ k ∧ v ≠ Memory.unlisted ∧ Memory.wfFrom (k + 1) rest = true := by
  simp only [Memory.wfFrom, Bool.and_eq_true, decide_eq_true_eq, bne_iff_ne, and_assoc]

@[simp] theorem Memory.byte_cons_self (k : Nat) (v : Byte) (rest : Memory) :
    Memory.byte ((k, v) :: rest) k = v := if_pos rfl

/-- A memory in canonical form that reads as the empty one is the empty one. -/
theorem Memory.eq_nil_of_unlisted {m : Memory} {lo : Nat} (hm : Memory.wfFrom lo m = true)
    (h : ∀ a, Memory.byte m a = Memory.unlisted) : m = [] := by
  cases m with
  | nil => rfl
  | cons cell rest =>
    obtain ⟨k, v⟩ := cell
    obtain ⟨-, hv, -⟩ := Memory.wfFrom_cons.1 hm
    exact absurd ((Memory.byte_cons_self k v rest).symm.trans (h k)) hv

/-- Of two memories in canonical form that read alike, neither starts at a lower address than the other. -/
theorem Memory.first_le {m n : Memory} {j k : Nat} {v w : Byte} {lo : Nat}
    (hn : Memory.wfFrom lo ((k, w) :: n) = true) (hv : v ≠ Memory.unlisted)
    (h : ∀ a, Memory.byte ((j, v) :: m) a = Memory.byte ((k, w) :: n) a) : k ≤ j := by
  obtain ⟨-, hw, hrest⟩ := Memory.wfFrom_cons.1 hn
  by_contra hlt
  have above : Memory.wfFrom k ((k, w) :: n) = true := Memory.wfFrom_cons.2 ⟨le_rfl, hw, hrest⟩
  have hj := h j
  rw [Memory.byte_cons_self, Memory.byte_of_wfFrom above (not_le.1 hlt)] at hj
  exact hv hj

/-- Two memories in canonical form that read alike are the same. -/
theorem Memory.ext_of_wfFrom {m n : Memory} {lo : Nat} (hm : Memory.wfFrom lo m = true)
    (hn : Memory.wfFrom lo n = true) (h : ∀ a, Memory.byte m a = Memory.byte n a) : m = n := by
  induction m generalizing n lo with
  | nil => exact (Memory.eq_nil_of_unlisted hn fun a => (h a).symm).symm
  | cons cell m ih =>
    obtain ⟨j, v⟩ := cell
    cases n with
    | nil => exact Memory.eq_nil_of_unlisted hm h
    | cons cell n =>
      obtain ⟨k, w⟩ := cell
      obtain ⟨-, hv, hm'⟩ := Memory.wfFrom_cons.1 hm
      obtain ⟨-, hw, hn'⟩ := Memory.wfFrom_cons.1 hn
      obtain rfl : j = k := le_antisymm (Memory.first_le hm hw fun a => (h a).symm) (Memory.first_le hn hv h)
      obtain rfl : v = w := by simpa using h j
      have tails (a : Nat) : Memory.byte m a = Memory.byte n a := by
        by_cases ha : a < j + 1
        · rw [Memory.byte_of_wfFrom hm' ha, Memory.byte_of_wfFrom hn' ha]
        · have hne : a ≠ j := by omega
          have ha' := h a
          rwa [Memory.byte, Memory.byte, if_neg hne, if_neg hne] at ha'
      rw [ih hm' hn' tails]

/-! ### The cells of memory -/

theorem Memory.mem_insertCell {m : Memory} {a : Nat} {v : Byte} {cell : Host.Cell}
    (h : cell ∈ Memory.insertCell m a v) : cell ∈ m ∨ cell.1 = a := by
  induction m with
  | nil => exact .inr (congrArg Prod.fst (List.mem_singleton.1 h))
  | cons first rest ih =>
    obtain ⟨k, w⟩ := first
    rw [Memory.insertCell] at h
    split_ifs at h with hlt heq
    · rcases List.mem_cons.1 h with rfl | h
      · exact .inr rfl
      · exact .inl h
    · rcases List.mem_cons.1 h with rfl | h
      · exact .inr rfl
      · exact .inl (List.mem_cons_of_mem _ h)
    · rcases List.mem_cons.1 h with rfl | h
      · exact .inl List.mem_cons_self
      · exact (ih h).imp_left (List.mem_cons_of_mem _)

theorem Memory.mem_setByte {m : Memory} {a : Nat} {v : Byte} {cell : Host.Cell}
    (h : cell ∈ Memory.setByte m a v) : cell ∈ m ∨ cell.1 = a := by
  unfold Memory.setByte at h
  split_ifs at h
  · exact .inl (List.mem_of_mem_filter h)
  · exact Memory.mem_insertCell h

/-- A word stored adds no cells but those of its own bytes. -/
theorem Memory.mem_setWord {m : Memory} {pa : Nat} {w : Word} {cell : Host.Cell}
    (h : cell ∈ Memory.setWord m pa w) : cell ∈ m ∨ cell.1 / 2 = pa := by
  rcases Memory.mem_setByte h with h | h
  · exact (Memory.mem_setByte h).imp_right fun h => by omega
  · exact .inr (by omega)

end Sys2Proof.Machine

open Sys2Proof Sys2Proof.Machine

/-- Settles O13: the bytes of a word are those stored, and the canonical form has one list for each reading. -/
theorem storedWordReadsBack : Obligations.StoredWordReadsBack := by
  unfold Obligations.StoredWordReadsBack
  constructor
  · intro m pa pb w hm
    exact ⟨Memory.wf_setWord hm pa w, Memory.word_setWord m pa pb w⟩
  · intro m n hm hn h
    exact Memory.ext_of_wfFrom hm hn h
end

section
/-! SUPPORT. What every instruction keeps: a property of states that each update of a kind keeps is kept by every
instruction that is made of updates of that kind. -/

namespace Sys2Proof.Claims

open Sys2Proof.Machine

/-- Every next state of an outcome has a property. -/
def Ends (P : State → Prop) (o : Machine.Outcome) : Prop := ∀ t, o = .next t → P t

theorem ends_next {P : State → Prop} {t : State} (h : P t) : Ends P (.next t) := by rintro _ ⟨⟩; exact h

/-- The updates of which the instructions are made that neither jump nor are privileged: a property that each of
them keeps. -/
structure Kept (P : State → Prop) : Prop where
  /-- A register written (10_state.md R51). -/
  setReg : ∀ {u : State} {r : Reg} {v : Word}, P u → P (u.setReg r v)
  /-- CS set (10_state.md R58). -/
  setCs : ∀ {u : State} {c : Nibble}, P u → P (u.setCs c)
  /-- Interrupts requested (60_exceptions.md R609). -/
  request : ∀ {u : State} {x : Word}, P u → P { u with pir := u.pir ||| x }
  /-- A free value drawn (log 11). -/
  draw : ∀ {u : State}, P u → P u.draw.2
  /-- The DMA accesses before a reference made (20_memory.md R153). -/
  awaitBus : ∀ {u : State}, P u → P u.awaitBus
  /-- A word stored that exists (20_memory.md R131, R141). -/
  storePhysical : ∀ {u : State} {pa : Nat} {w : Word}, u.cfg.isPresent pa = true → P u → P (u.storePhysical pa w)
  /-- A fault that aborts the instruction (60_exceptions.md R601). -/
  raiseFault : ∀ {u : State} {a : Abort}, P u → P (u.raiseFault a)
  /-- The processor halted (49_compare_nop_bpt.md R578). -/
  halt : ∀ {u : State} {b : Bool}, P u → P { u with halted := b }

/-- The input/output commands: a property that each of them keeps on a machine that has it. -/
structure KeptByCommands (P : State → Prop) : Prop where
  /-- An output command (40_input_output.md R225). -/
  runOutput : ∀ {u : State} {cmd v : Word} {c : OutCommand}, outCommand u.cfg cmd = some c → P u → P (u.runOutput c v)
  /-- An input command (40_input_output.md R225). -/
  runInput : ∀ {u : State} {c : InCommand}, P u → P (u.runInput c).2

/-- A jump: a property that a change of IC keeps. -/
structure KeptByJumps (P : State → Prop) : Prop where
  /-- IC set (43_jump_branch.md R340). -/
  jumpTo : ∀ {u : State} {a : Word}, P u → P (u.jumpTo a)

section Operations

variable {P : State → Prop} {α β : Type} {u : State}

/-! ### Registers, requests and free values -/

theorem Kept.requestIf (K : Kept P) {b : Bool} {n : Nat} (h : P u) : P (u.requestIf b n) := K.request h

theorem Kept.setPair (K : Kept P) {r : Reg} {v : Double} (h : P u) : P (u.setPair r v) := K.setReg (K.setReg h)

theorem Kept.setTriple (K : Kept P) {r : Reg} {v : Triple} (h : P u) : P (u.setTriple r v) :=
  K.setReg (K.setReg (K.setReg h))

theorem Kept.setRegs (K : Kept P) {rs : List (Reg × Word)} (h : P u) : P (setRegs rs u) := by
  induction rs generalizing u with
  | nil => exact h
  | cons p rest ih => exact ih (K.setReg h)

theorem Kept.openReg (K : Kept P) {r : Reg} (h : P u) : P (u.openReg r) := K.setReg (K.draw h)

theorem Kept.openStatus (K : Kept P) (h : P u) : P u.openStatus := K.request (K.setCs (K.draw (K.draw h)))

theorem Kept.openPair (K : Kept P) {r : Reg} (h : P u) : P (u.openPair r) := K.openStatus (K.openReg (K.openReg h))

theorem Kept.openTriple (K : Kept P) {r : Reg} (h : P u) : P (u.openTriple r) :=
  K.openStatus (K.openReg (K.openReg (K.openReg h)))

theorem Kept.requestFloat (K : Kept P) {r : FloatRequest} (h : P u) : P (u.requestFloat r) := by
  cases r with
  | none => exact h
  | overflow => exact K.requestIf h
  | underflow => exact K.requestIf h

theorem Kept.putFloat (K : Kept P) {r : Reg} {v : FloatResult} (h : P u) : P (u.putFloat r v) :=
  K.requestFloat (K.setCs (K.setPair h))

theorem Kept.putExtended (K : Kept P) {r : Reg} {v : FloatResult} (h : P u) : P (u.putExtended r v) :=
  K.requestFloat (K.setCs (K.setTriple h))

/-! ### Reads -/

theorem andThen_keeps {x : Reading α} {k : α → State → Reading β} (hx : P x.2)
    (hk : ∀ v {t : State}, P t → P (k v t).2) : P (x.andThen k).2 := by
  obtain ⟨r, t⟩ := x
  cases r with
  | error a => exact hx
  | ok v => exact hk v hx

theorem Kept.read (K : Kept P) {la : Word} (h : P u) : P (u.read la).2 :=
  State.read_keeps (P := P) (fun _ => K.awaitBus) h la

theorem Kept.readDouble (K : Kept P) {la : Word} (h : P u) : P (u.readDouble la).2 :=
  andThen_keeps (K.read h) fun _ _ h => andThen_keeps (K.read h) fun _ _ h => h

theorem Kept.readTriple (K : Kept P) {la : Word} (h : P u) : P (u.readTriple la).2 :=
  andThen_keeps (K.readDouble h) fun _ _ h => andThen_keeps (K.read h) fun _ _ h => h

theorem Kept.readMany (K : Kept P) {la : Word} {n : Nat} (h : P u) : P (u.readMany la n).2 := by
  induction n generalizing u la with
  | zero => exact h
  | succ n ih => exact andThen_keeps (K.read h) fun _ _ h => andThen_keeps (ih h) fun _ _ h => h

theorem Kept.cell (K : Kept P) {la : Word} (h : P u) : P (u.cell la).2 := andThen_keeps (K.read h) fun _ _ h => h

/-! ### Writes -/

theorem Kept.writeAll (K : Kept P) {group key : Nibble} {ws : List (Word × Word)} (h : P u) :
    P (u.writeAll group key ws).1 :=
  State.writeAll_keeps (P := P) (fun _ => K.awaitBus) (fun _ _ _ => K.storePhysical) group key ws h

theorem Kept.writeWord (K : Kept P) {r : MemRef} {key : Nibble} {w : Word} (h : P u) : P (u.writeWord r key w).1 := by
  unfold State.writeWord
  cases hf : u.writeFault r key with
  | some k => exact h
  | none => exact K.storePhysical (State.isPresent_of_writable hf) h

theorem Kept.afterWrites (K : Kept P) {x : State × Option Abort} {k : State → State} (hx : P x.1)
    (hk : ∀ {t : State}, P t → P (k t)) : P (afterWrites x k) := by
  obtain ⟨t, a⟩ := x
  cases a with
  | none => exact hk hx
  | some a => exact K.raiseFault hx

theorem Kept.writeThen (K : Kept P) {ws : List (Word × Word)} {k : State → State} (h : P u)
    (hk : ∀ {t : State}, P t → P (k t)) : P (u.writeThen ws k) :=
  K.afterWrites (K.writeAll h) hk

theorem Kept.store (K : Kept P) {la : Word} {ws : List Word} (h : P u) : P (u.store la ws) := K.writeThen h id

theorem Kept.storeBack (K : Kept P) {f : State → Word → Word} {cell : Word × Word} (h : P u) :
    P (storeBack f cell u) := K.store h

/-! ### What an instruction does with its operand -/

theorem Kept.addWord (K : Kept P) {acc : Reg} {d : Word} (h : P u) : P (addWord acc d u) :=
  K.requestIf (K.setCs (K.setReg h))

theorem Kept.addPair (K : Kept P) {acc : Reg} {d : Double} (h : P u) : P (addPair acc d u) :=
  K.requestIf (K.setCs (K.setPair h))

theorem Kept.subWord (K : Kept P) {acc : Reg} {d : Word} (h : P u) : P (subWord acc d u) :=
  K.requestIf (K.setCs (K.setReg h))

theorem Kept.subPair (K : Kept P) {acc : Reg} {d : Double} (h : P u) : P (subPair acc d u) :=
  K.requestIf (K.setCs (K.setPair h))

theorem Kept.updateMemory (K : Kept P) {op : Word → Word → FixedSum 16} {n : Nat} {cell : Word × Word} (h : P u) :
    P (updateMemory op n cell u) :=
  K.writeThen h fun h => K.requestIf (K.setCs h)

theorem Kept.putSigned (K : Kept P) {ra : Reg} {r : Word × Bool} (h : P u) : P (putSigned ra r u) :=
  K.requestIf (K.setCs (K.setReg h))

theorem Kept.putSignedPair (K : Kept P) {ra : Reg} {r : Double × Bool} (h : P u) : P (putSignedPair ra r u) :=
  K.requestIf (K.setCs (K.setPair h))

theorem Kept.floatWith (K : Kept P) {op : Unpacked → Unpacked → FloatResult} {acc : Reg} {d : Double} (h : P u) :
    P (floatWith op acc d u) := by
  unfold Machine.floatWith
  split_ifs
  · exact K.putFloat h
  · exact K.openPair h

theorem Kept.extendedWith (K : Kept P) {op : Unpacked → Unpacked → FloatResult} {acc : Reg} {d : Triple} (h : P u) :
    P (extendedWith op acc d u) := by
  unfold Machine.extendedWith
  split_ifs
  · exact K.putExtended h
  · exact K.openTriple h

theorem Kept.floatOf (K : Kept P) {op : Unpacked → FloatResult} {ra : Reg} {d : Double} (h : P u) :
    P (floatOf op ra d u) := by
  unfold Machine.floatOf
  split_ifs
  · exact K.putFloat h
  · exact K.openPair h

theorem Kept.compareFloat (K : Kept P) {acc : Reg} {d : Double} (h : P u) : P (compareFloat acc d u) := by
  unfold Machine.compareFloat
  split_ifs
  · exact K.setCs h
  · exact K.openStatus h

theorem Kept.compareExtended (K : Kept P) {acc : Reg} {d : Triple} (h : P u) : P (compareExtended acc d u) := by
  unfold Machine.compareExtended
  split_ifs
  · exact K.setCs h
  · exact K.openStatus h

theorem Kept.testAndSet (K : Kept P) {n : Nibble} {cell : Word × Word} (h : P u) : P (testAndSet n cell u) :=
  K.afterWrites (K.writeWord h) K.setCs

theorem Kept.loadWord (K : Kept P) {ra : Reg} {d : Word} (h : P u) : P (loadWord ra d u) := K.setCs (K.setReg h)

theorem Kept.loadPair (K : Kept P) {ra : Reg} {d : Double} (h : P u) : P (loadPair ra d u) := K.setCs (K.setPair h)

theorem Kept.loadTriple (K : Kept P) {ra : Reg} {d : Triple} (h : P u) : P (loadTriple ra d u) :=
  K.setCs (K.setTriple h)

theorem Kept.logicalWord (K : Kept P) {op : Word → Word → Word} {acc : Reg} {d : Word} (h : P u) :
    P (logicalWord op acc d u) := K.setCs (K.setReg h)

theorem Kept.fixWord (K : Kept P) {ra : Reg} {d : Double} (h : P u) : P (fixWord ra d u) := by
  unfold Machine.fixWord
  split_ifs
  · split
    · exact K.requestIf (K.setCs h)
    · exact K.setCs (K.setReg h)
  · exact K.openStatus (K.openReg h)

theorem Kept.fixPair (K : Kept P) {ra : Reg} {d : Triple} (h : P u) : P (fixPair ra d u) := by
  unfold Machine.fixPair
  split_ifs
  · split
    · exact K.requestIf (K.setCs h)
    · exact K.setCs (K.setPair h)
  · exact K.openPair h

theorem Kept.exchangeRegs (K : Kept P) {ra rb : Reg} (h : P u) : P (exchangeRegs ra rb u) :=
  K.setCs (K.setReg (K.setReg h))

theorem Kept.mulWord (K : Kept P) {ra : Reg} {d : Word} (h : P u) : P (mulWord ra d u) :=
  K.requestIf (K.setCs (K.setReg h))

theorem Kept.mulToPair (K : Kept P) {acc : Reg} {d : Word} (h : P u) : P (mulToPair acc d u) := K.setCs (K.setPair h)

theorem Kept.mulPair (K : Kept P) {ra : Reg} {d : Double} (h : P u) : P (mulPair ra d u) :=
  K.requestIf (K.setCs (K.setPair h))

theorem Kept.putQuotient (K : Kept P) {acc : Reg} {r : Word × Word × Bool} (h : P u) : P (putQuotient acc r u) :=
  K.requestIf (K.setCs (K.setReg (K.setReg h)))

theorem Kept.divPair (K : Kept P) {ra : Reg} {d : Double} (h : P u) : P (divPair ra d u) :=
  K.requestIf (K.setCs (K.setPair h))

theorem Kept.shiftRegister (K : Kept P) {left right : Word → Nat → Word} {overflows : Word → Nat → Bool} {ra rb : Reg}
    (h : P u) : P (shiftRegister left right overflows ra rb u) := by
  unfold Machine.shiftRegister
  split
  · exact K.requestIf h
  · exact K.requestIf (K.setCs (K.setReg h))

theorem Kept.shiftPair (K : Kept P) {left right : Double → Nat → Double} {overflows : Double → Nat → Bool}
    {ra rb : Reg} (h : P u) : P (shiftPair left right overflows ra rb u) := by
  unfold Machine.shiftPair
  split
  · exact K.requestIf h
  · exact K.requestIf (K.setCs (K.setPair h))

end Operations

section Instructions

variable {P : State → Prop} {α : Type} {s : State} {len : Word}

/-! ### How an instruction goes -/

theorem ends_completing {k : State → State} (hs : P (s.advance len)) (hk : ∀ {t : State}, P t → P (k t)) :
    Ends P (completing s len k) := ends_next (hk hs)

theorem Kept.onRead (K : Kept P) {x : Reading α} {k : α → State → State} (hx : P x.2)
    (hk : ∀ {v : α} {t : State}, P t → P (k v t)) : Ends P (onRead x k) := by
  obtain ⟨r, t⟩ := x
  cases r with
  | error a => exact ends_next (K.raiseFault hx)
  | ok v => exact ends_next (hk hx)

/-- An operand of one word, at a derived address (modes B, BX, D, DX). -/
theorem Kept.onWord (K : Kept P) {da : State → Word} {k : Word → State → State} (hs : P (s.advance len))
    (hk : ∀ {v : Word} {t : State}, P t → P (k v t)) : Ends P (onOperand s len (fun n => n.read (da n)) k) :=
  K.onRead (K.read hs) hk

/-- An operand of two words, at a derived address. -/
theorem Kept.onDouble (K : Kept P) {da : State → Word} {k : Double → State → State} (hs : P (s.advance len))
    (hk : ∀ {v : Double} {t : State}, P t → P (k v t)) : Ends P (onOperand s len (fun n => n.readDouble (da n)) k) :=
  K.onRead (K.readDouble hs) hk

/-- An operand of three words, at a derived address. -/
theorem Kept.onTriple (K : Kept P) {da : State → Word} {k : Triple → State → State} (hs : P (s.advance len))
    (hk : ∀ {v : Triple} {t : State}, P t → P (k v t)) : Ends P (onOperand s len (fun n => n.readTriple (da n)) k) :=
  K.onRead (K.readTriple hs) hk

/-- An operand that is stored back changed, at a derived address. -/
theorem Kept.onCell (K : Kept P) {da : State → Word} {k : Word × Word → State → State} (hs : P (s.advance len))
    (hk : ∀ {v : Word × Word} {t : State}, P t → P (k v t)) : Ends P (onOperand s len (fun n => n.cell (da n)) k) :=
  K.onRead (K.cell hs) hk

/-- An operand read through a pointer (modes I, IX). -/
theorem Kept.onPointer (K : Kept P) {da : State → Word} {x : Word → State → Reading α} {k : α → State → State}
    (hs : P (s.advance len)) (hx : ∀ {v : Word} {t : State}, P t → P (x v t).2)
    (hk : ∀ {v : α} {t : State}, P t → P (k v t)) :
    Ends P (onOperand s len (fun n => (n.read (da n)).andThen x) k) :=
  K.onRead (andThen_keeps (K.read hs) fun _ _ => hx) hk

theorem Kept.onMany (K : Kept P) {da : State → Word} {c : Nat} {k : List Word → State → State}
    (hs : P (s.advance len)) (hk : ∀ {v : List Word} {t : State}, P t → P (k v t)) :
    Ends P (onOperand s len (fun n => n.readMany (da n) c) k) :=
  K.onRead (K.readMany hs) hk

/-- A privileged instruction, refused or not (60_exceptions.md R650). -/
theorem Kept.privileged (K : Kept P) {o : Machine.Outcome} (hs : P (s.advance 2)) (ho : Ends P o) :
    Ends P (privileged s o) := by
  unfold Machine.privileged
  split_ifs
  · exact ho
  · exact ends_next (K.raiseFault hs)

/-! ### The instructions -/

/-- MOV moves a word, or has none to move (45_store.md R409). -/
theorem Kept.execMov (K : Kept P) (J : KeptByJumps P) {ra rb : Reg}
    (hs : P (s.advance 1)) : Ends P (execMov ra rb s) := by
  have moveWord {v : Word} {t : State} (h : P t) : P (moveWord ra rb s.ic v t) := by
    unfold Machine.moveWord
    split_ifs
    · exact K.writeThen h fun h => J.jumpTo (K.setRegs (K.draw (K.draw (K.draw (K.draw h)))))
    · exact K.writeThen h fun h => J.jumpTo (K.setReg (K.setReg (K.setReg h)))
  unfold Machine.execMov
  split_ifs
  · exact ends_completing hs id
  · exact K.onWord hs moveWord

/-- An instruction that neither redirects IC nor is privileged, by what it does with its operand. -/
theorem Kept.exec_of_not_redirects (K : Kept P) {i : Instr} (hr : redirects i = false) (hp : ¬Privileged i)
    (hs : P (s.advance (BitVec.ofNat 16 (encode i).length))) : Ends P (exec i s) := by
  cases i <;> unfold Machine.exec
  case xio => exact absurd (.xio ..) hp
  case vio => exact absurd (.vio ..) hp
  case jc | jci | js | soj | br | bez | blt | bex | ble | bgt | bnz | bge | lsti | lst | sjs | urs | mov =>
    exact Bool.noConfusion hr
  case lr | lisp | lisn | lim => exact ends_completing hs K.loadWord
  case lb | lbx | l | lub | llb => exact K.onWord hs K.loadWord
  case li | lubi | llbi => exact K.onPointer hs K.read K.loadWord
  case dlr => exact ends_completing hs K.loadPair
  case dlb | dlbx | dl => exact K.onDouble hs K.loadPair
  case dli => exact K.onPointer hs K.readDouble K.loadPair
  case efl => exact K.onTriple hs K.loadTriple
  case lm => exact K.onMany hs K.setRegs
  case popm => exact K.onMany hs fun h => K.setReg (K.setRegs h)
  case stb | stbx | st | stc | dstb | dstx | dst | stm | efst => exact ends_completing hs K.store
  case sti | stci | dsti => exact K.onWord hs K.store
  case srm | stub | stlb | sb | rb => exact K.onCell hs K.storeBack
  case subi | slbi | sbi | rbi => exact K.onPointer hs K.cell K.storeBack
  case pshm => exact ends_completing hs fun h => K.writeThen h K.setReg
  case sbr | rbr | svbr | rvbr => exact ends_completing hs K.setReg
  case tbr | tvbr => exact ends_completing hs K.setCs
  case tb => exact K.onWord hs K.setCs
  case tbi => exact K.onPointer hs K.read K.setCs
  case tsb => exact K.onCell hs K.testAndSet
  case sll | srl | sra | slc => exact ends_completing hs K.loadWord
  case dsll | dsrl | dsra | dslc => exact ends_completing hs K.loadPair
  case slr | sar | scr => exact ends_completing hs K.shiftRegister
  case dslr | dsar | dscr => exact ends_completing hs K.shiftPair
  case ar | aisp | aim => exact ends_completing hs K.addWord
  case ab | abx | a => exact K.onWord hs K.addWord
  case dar => exact ends_completing hs K.addPair
  case da => exact K.onDouble hs K.addPair
  case sr | sisp | sim => exact ends_completing hs K.subWord
  case sbb | sbbx | s => exact K.onWord hs K.subWord
  case dsr => exact ends_completing hs K.subPair
  case ds => exact K.onDouble hs K.subPair
  case incm | decm => exact K.onCell hs K.updateMemory
  case abs | neg => exact ends_completing hs K.putSigned
  case dabs | dneg => exact ends_completing hs K.putSignedPair
  case msr | misp | misn | msim => exact ends_completing hs K.mulWord
  case ms => exact K.onWord hs K.mulWord
  case mr | mim => exact ends_completing hs K.mulToPair
  case mb | mbx | m => exact K.onWord hs K.mulToPair
  case dmr => exact ends_completing hs K.mulPair
  case dm => exact K.onDouble hs K.mulPair
  case dvr | disp | disn | dvim | dr | dim => exact ends_completing hs K.putQuotient
  case dv | db | dbx | d => exact K.onWord hs K.putQuotient
  case ddr => exact ends_completing hs K.divPair
  case dd => exact K.onDouble hs K.divPair
  case far | fsr | fmr | fdr => exact ends_completing hs K.floatWith
  case fab | fabx | fa | fsb | fsbx | fs | fmb | fmbx | fm | fdb | fdbx | fd => exact K.onDouble hs K.floatWith
  case efar | efsr | efmr | efdr => exact ends_completing hs K.extendedWith
  case efa | efs | efm | efd => exact K.onTriple hs K.extendedWith
  case fabs | fneg => exact ends_completing hs K.floatOf
  case fix => exact ends_completing hs K.fixWord
  case efix => exact ends_completing hs K.fixPair
  case flt => exact ends_completing hs K.loadPair
  case eflt => exact ends_completing hs K.loadTriple
  case orr | orim | andr | andm | xorr | xorm | nr | nim => exact ends_completing hs K.logicalWord
  case orb | orbx | or | andb | andx | and | xor | n => exact K.onWord hs K.logicalWord
  case xbr => exact ends_completing hs K.loadWord
  case xwr => exact ends_completing hs K.exchangeRegs
  case cr | cisp | cisn | cim | dcr => exact ends_completing hs K.setCs
  case cb | cbx | c => exact K.onWord hs K.setCs
  case cbl | dc => exact K.onDouble hs K.setCs
  case fcr => exact ends_completing hs K.compareFloat
  case fcb | fcbx | fc => exact K.onDouble hs K.compareFloat
  case efcr => exact ends_completing hs K.compareExtended
  case efc => exact K.onTriple hs K.compareExtended
  case nop => exact ends_completing hs id
  case bpt => exact ends_completing hs K.halt

/-- Any instruction that is neither privileged nor BEX, where a change of IC keeps the property too. -/
theorem Kept.exec_of_jumps (K : Kept P) (J : KeptByJumps P) {i : Instr}
    (hp : ¬Privileged i) (hb : ∀ n, i ≠ .bex n) (hs : P s) : Ends P (exec i s) := by
  have advance {n : Word} : P (s.advance n) := J.jumpTo hs
  have jumpIf {u : State} {b : Bool} {a : Word} (h : P u) : P (u.jumpIf b a) := by
    cases b with
    | false => exact h
    | true => exact J.jumpTo h
  have branch {mask : Nibble} {d : Byte} : Ends P (branchOn s mask d) := ends_completing advance jumpIf
  cases hr : redirects i with
  | false => exact K.exec_of_not_redirects hr hp advance
  | true =>
    cases i
    case bex n => exact absurd rfl (hb n)
    case lst => exact absurd (.lst ..) hp
    case lsti => exact absurd (.lsti ..) hp
    case jc => unfold Machine.exec; exact ends_completing advance jumpIf
    case jci => unfold Machine.exec; exact K.onWord advance jumpIf
    case js => exact ends_completing advance fun h => J.jumpTo (K.setReg h)
    case soj => exact ends_completing advance fun h => jumpIf (K.setCs (K.setReg h))
    case br => exact ends_completing advance J.jumpTo
    case bez | blt | ble | bgt | bnz | bge => exact branch
    case sjs => exact ends_completing advance fun h => K.writeThen h fun h => J.jumpTo (K.setReg h)
    case urs => unfold Machine.exec; exact K.onWord advance fun h => J.jumpTo (K.setReg h)
    case mov => exact K.execMov J advance
    all_goals exact Bool.noConfusion hr

/-! ### Input and output -/

theorem Kept.executeCommand (K : Kept P) (C : KeptByCommands P) {ra : Reg} {cmd : Word} (hs : P s) :
    Ends P (executeCommand ra cmd s) := by
  unfold Machine.executeCommand State.doInput State.doOutput
  split_ifs
  · cases inCommand s.cfg cmd with
    | none => exact ends_next (K.raiseFault hs)
    | some c => exact ends_next (K.setReg (C.runInput hs))
  · cases hc : outCommand s.cfg cmd with
    | none => exact ends_next (K.raiseFault hs)
    | some c => exact ends_next (C.runOutput hc hs)

theorem Kept.vectorCommand (K : Kept P) (C : KeptByCommands P) {cmd la : Word} (hs : P s) :
    P (vectorCommand cmd la s).1 := by
  unfold Machine.vectorCommand State.doInput
  split_ifs
  · cases inCommand s.cfg cmd with
    | none => exact hs
    | some c =>
      have hw := K.writeAll (group := (s.runInput c).2.as) (key := (s.runInput c).2.ps)
        (ws := [(la, (s.runInput c).1)]) (C.runInput (c := c) hs)
      dsimp only
      generalize State.writeAll _ _ _ _ = x at hw
      obtain ⟨t, _ | a⟩ := x
      · exact hw
      · exact K.awaitBus hs
  · cases hc : outCommand s.cfg cmd with
    | none => exact hs
    | some c =>
      have hr := K.read (la := la) hs
      have hcfg : (s.read la).2.cfg = s.cfg := State.cfg_awaitBus s
      dsimp only
      generalize s.read la = x at hr hcfg
      obtain ⟨a | v, t⟩ := x
      · exact hr
      · exact C.runOutput (hcfg ▸ hc) hr

theorem Kept.vectorCommands (K : Kept P) (C : KeptByCommands P) {base step sel la : Word} {ns : List Nat} (hs : P s) :
    P (vectorCommands base step sel la ns s).1 := by
  induction ns generalizing la s with
  | nil => exact hs
  | cons n rest ih =>
    rw [Machine.vectorCommands]
    split_ifs
    · have hv := K.vectorCommand C (cmd := base + BitVec.ofNat 16 n * step) (la := la) hs
      generalize Machine.vectorCommand _ la s = x at hv
      obtain ⟨t, _ | a⟩ := x
      · exact ih hv
      · exact hv
    · exact ih hs

theorem Kept.runVector (K : Kept P) (C : KeptByCommands P) {ra : Reg} {da : Word} {table : Double} (hs : P s) :
    P (runVector ra da table s) := K.afterWrites (K.vectorCommands C hs) id

/-- The instructions that do not redirect IC, the privileged ones among them. -/
theorem Kept.exec_of_commands (K : Kept P) (C : KeptByCommands P) {i : Instr} (hr : redirects i = false)
    (hs : P (s.advance (BitVec.ofNat 16 (encode i).length))) : Ends P (exec i s) := by
  by_cases hp : Privileged i
  · cases hp with
    | xio => exact K.privileged hs (K.executeCommand C hs)
    | vio => exact K.privileged hs (K.onDouble hs (K.runVector C))
    | lst | lsti => exact Bool.noConfusion hr
  · exact K.exec_of_not_redirects hr hp hs

end Instructions

end Sys2Proof.Claims
end

section
/-! SUPPORT. What changes IC: nothing that an instruction does once IC is past it, but a jump (10_state.md R56). -/

namespace Sys2Proof.Claims

open Sys2Proof.Machine

/-- What the instruction counter is, is kept by every update but those of IC (10_state.md R56). -/
theorem kept_counter (ic : Word) : Kept fun u => u.ic = ic where
  setReg h := h
  setCs h := h
  request h := h
  draw h := h
  awaitBus h := (State.ic_awaitBus _).trans h
  storePhysical _ h := h
  raiseFault h := h
  halt h := h

@[simp] theorem State.ic_runOutput (s : State) (c : OutCommand) (v : Word) : (s.runOutput c v).ic = s.ic := by
  cases c
  case wsw => exact State.loadSw_ic s v
  case co => unfold State.runOutput; dsimp only; split_ifs <;> rfl
  all_goals rfl

@[simp] theorem State.ic_takePortWord (s : State) (code : Word) : (s.takePortWord code).2.ic = s.ic := by
  unfold State.takePortWord; split <;> rfl

@[simp] theorem State.ic_takeConsoleWord (s : State) : s.takeConsoleWord.2.ic = s.ic := by
  unfold State.takeConsoleWord; split <;> rfl

@[simp] theorem State.ic_runInput (s : State) (c : InCommand) : (s.runInput c).2.ic = s.ic := by
  cases c
  case pi code => exact State.ic_takePortWord s code
  case spareIn code => exact State.ic_takePortWord s code
  case ci => exact State.ic_takeConsoleWord s
  all_goals rfl

theorem keptByCommands_counter (ic : Word) : KeptByCommands fun u => u.ic = ic where
  runOutput _ h := (State.ic_runOutput ..).trans h
  runInput h := (State.ic_runInput ..).trans h

end Sys2Proof.Claims

open Sys2Proof Sys2Proof.Machine Sys2Proof.Claims

/-- Settles O12: past the instruction, no update that it is made of changes IC. -/
theorem counterReachesNextInstruction : Obligations.CounterReachesNextInstruction := by
  unfold Obligations.CounterReachesNextInstruction
  intro i s t hr ht
  exact (kept_counter _).exec_of_commands (keptByCommands_counter _) hr rfl t ht
end

section
/-! SUPPORT. What the references of a fetch, of a context load and of the interrupt sequence keep, whatever they
deliver. -/

namespace Sys2Proof.Claims

open Sys2Proof.Machine

/-- The state after a fetch, whatever it answers. -/
def fetchedState (f : Fetched) : State :=
  match f with
  | .instruction _ t => t
  | .aborted t => t

section References

variable {P : State → Prop} {s : State}

theorem Kept.decoded (K : Kept P) (J : KeptByJumps P) {w0 w1 : Word} (h : P s) :
    P (fetchedState (s.decoded w0 w1)) := by
  unfold State.decoded
  cases decode w0 w1 with
  | some i => exact h
  | none => exact K.raiseFault (J.jumpTo h)

theorem Kept.fetch (K : Kept P) (J : KeptByJumps P) (h : P s) : P (fetchedState s.fetch) := by
  have fetchWord {u : State} {la : Word} (hu : P u) : P (u.fetchWord la).2 := K.awaitBus hu
  have h0 := fetchWord (la := s.ic) h
  unfold State.fetch
  generalize s.fetchWord s.ic = first at h0
  obtain ⟨a | w0, t⟩ := first
  · exact K.raiseFault (J.jumpTo h0)
  · have h1 := fetchWord (la := s.ic + 1) h0
    dsimp only
    generalize t.fetchWord (s.ic + 1) = second at h1
    split_ifs
    · obtain ⟨a | w1, u⟩ := second
      · exact K.raiseFault (J.jumpTo h1)
      · exact K.decoded J h1
    · exact K.decoded J h0

theorem Kept.readContext (K : Kept P) {da : Word} (h : P s) : P (s.readContext da).2 :=
  andThen_keeps (K.read h) fun _ _ h => andThen_keeps (K.read h) fun _ _ h => andThen_keeps (K.read h) fun _ _ h => h

theorem Kept.readVector (K : Kept P) {la : Word} (h : P s) : P (s.readVector la).2 := K.awaitBus h

theorem Kept.readService (K : Kept P) {n : Nat} {entry : Nibble} (h : P s) : P (s.readService n entry).2 :=
  andThen_keeps (K.readVector h) fun _ _ h => andThen_keeps (K.readVector h) fun _ _ h =>
    andThen_keeps (K.readVector h) fun _ _ h => andThen_keeps (K.readVector h) fun _ _ h =>
      andThen_keeps (K.readVector h) fun _ _ h => h

/-- The interrupt sequence, complete or refused: what its steps keep beside its references is kept by it. -/
theorem Kept.interruptSequence (K : Kept P) {n : Nat} {entry : Nibble}
    (clear : ∀ {u : State} {x : Word}, P u → P { u with pir := u.pir &&& x, pihold := u.pihold &&& x })
    (load : ∀ {u : State} {c : Context}, P u → P (u.loadContext c)) (disable : ∀ {u : State}, P u → P u.disable)
    (freeze : ∀ {u : State}, P u → P (u.freeze n)) (h : P s) : P (s.interruptSequence n entry).1 := by
  have hr := K.readService (n := n) (entry := entry) (clear (x := ~~~bitMask n) h)
  unfold State.interruptSequence
  dsimp only
  generalize State.readService _ n entry = x at hr
  obtain ⟨a | ⟨c, lp⟩, t⟩ := x
  · exact hr
  · have hw := K.writeAll (group := (t.loadContext c).as) (key := 0#4) (ws := consecutive lp [s.mkr, s.sw, s.ic])
      (load (c := c) hr)
    dsimp only
    generalize State.writeAll _ _ _ _ = y at hw
    obtain ⟨s2, _ | a⟩ := y
    · exact freeze (disable hw)
    · exact disable hw

end References

end Sys2Proof.Claims
end

section
/-! SUPPORT. The invariant of the machine under every update that an instruction, a command, an event or an interrupt
makes (10_state.md R61 to R63, R75; 60_exceptions.md R600, R608). -/

namespace Sys2Proof.Claims

open Sys2Proof.Machine

/-! ### Words whose bits are all bits of another -/

theorem within_iff {a b : Word} : a &&& ~~~b = 0#16 ↔ ∀ i < 16, a.getLsbD i = true → b.getLsbD i = true := by
  constructor
  · intro h i hi ha
    have hbit := congrArg (fun w => w.getLsbD i) h
    simpa [hi, ha] using hbit
  · intro h
    apply BitVec.eq_of_getLsbD_eq
    intro i hi
    cases ha : a.getLsbD i with
    | false => simp [ha]
    | true => simp [h i hi ha]

theorem within_or {a b : Word} (h : a &&& ~~~b = 0#16) (x : Word) : a &&& ~~~(b ||| x) = 0#16 := by
  rw [BitVec.not_or, ← BitVec.and_assoc, h, BitVec.zero_and]

theorem or_within {a b c : Word} (ha : a &&& ~~~c = 0#16) (hb : b &&& ~~~c = 0#16) : (a ||| b) &&& ~~~c = 0#16 := by
  rw [BitVec.and_or_distrib_right, ha, hb, BitVec.zero_or]

theorem and_within (x c : Word) : x &&& c &&& ~~~c = 0#16 := by
  rw [BitVec.and_assoc, BitVec.and_not_self]
  exact BitVec.and_zero

theorem or_within_or {a b : Word} (h : a &&& ~~~b = 0#16) (x : Word) : (a ||| x) &&& ~~~(b ||| x) = 0#16 := by
  rw [within_iff] at h ⊢
  intro i hi
  simp only [BitVec.getLsbD_or, Bool.or_eq_true]
  exact Or.imp_left (h i hi)

theorem and_within_and {a b : Word} (h : a &&& ~~~b = 0#16) (x : Word) : (a &&& x) &&& ~~~(b &&& x) = 0#16 := by
  rw [within_iff] at h ⊢
  intro i hi
  simp only [BitVec.getLsbD_and, Bool.and_eq_true]
  exact And.imp_left (h i hi)

theorem and_within_left {a b : Word} (h : a &&& ~~~b = 0#16) (x : Word) : (a &&& x) &&& ~~~b = 0#16 := by
  rw [BitVec.and_assoc, BitVec.and_comm x, ← BitVec.and_assoc, h, BitVec.zero_and]

/-! ### Interrupts, faults and the status word -/

section Updates

variable {s : State}

theorem Sound.request (h : Sound s) {x : Word} : Sound { s with pir := s.pir ||| x } :=
  { h with held := within_or h.held x }

/-- Requests cleared, held or not (60_exceptions.md R624, 40_input_output.md R232). -/
theorem Sound.clearRequests (h : Sound s) {x : Word} : Sound { s with pir := s.pir &&& x, pihold := s.pihold &&& x } :=
  { h with held := and_within_and h.held x }

theorem Sound.recordFault (h : Sound s) {k : Nat} : Sound (s.recordFault k) :=
  { h with
    faults := or_within h.faults (and_within _ _)
    held := within_or h.held _ }

theorem Sound.clearFaults (h : Sound s) : Sound { s with ft := 0#16 } := { h with faults := BitVec.zero_and }

theorem Sound.raiseFault (h : Sound s) {a : Abort} : Sound (s.raiseFault a) :=
  Sound.recordFault (s := s.capture a.ref) { h with }

theorem Sound.setCs (h : Sound s) {c : Nibble} : Sound (s.setCs c) :=
  { h with addressState := (State.as_setCs s c).symm ▸ h.addressState }

theorem groups_pos (c : Config) : 0 < c.groups := by
  unfold Config.groups PageGroups.count
  split_ifs
  · split <;> decide
  · decide

/-- The address state loaded names a group that exists (60_exceptions.md R608). -/
theorem Sound.loadSw (h : Sound s) {v : Word} : Sound (s.loadSw v) := by
  unfold State.loadSw
  split_ifs with hg
  · have has : (v.extractLsb' 4 12 ++ 0#4 : Word).extractLsb' 0 4 = 0#4 := BitVec.extractLsb'_append_eq_right
    refine { h.recordFault with addressState := ?_ }
    show BitVec.toNat ((v.extractLsb' 4 12 ++ 0#4 : Word).extractLsb' 0 4) < _
    rw [has]
    exact groups_pos _
  · exact { h with addressState := not_le.1 hg }

theorem Sound.loadContext (h : Sound s) {c : Context} : Sound (s.loadContext c) :=
  { Sound.loadSw (s := { s with mkr := c.mask }) { h with } (v := c.status) with }

theorem State.cfg_freeze (s : State) (n : Nat) : (s.freeze n).cfg = s.cfg := by rw [State.freeze_eq]

theorem Sound.freeze (h : Sound s) {n : Nat} : Sound (s.freeze n) := by
  unfold State.freeze
  split_ifs
  · exact { h with }
  · exact h

/-! ### Memory -/

/-- Only words that exist are stored to (20_memory.md R131). -/
theorem Sound.storePhysical (h : Sound s) {pa : Nat} {w : Word} (hp : s.cfg.isPresent pa = true) :
    Sound (s.storePhysical pa w) :=
  { h with
    canonical := Memory.wf_setWord h.canonical pa w
    present := fun cell hc => (Memory.mem_setWord hc).elim (h.present cell) fun e => e.symm ▸ hp }

theorem State.cfg_dmaAccess (s : State) (a : DmaAccess) : (s.dmaAccess a).cfg = s.cfg := by rw [State.dmaAccess_eq]

theorem Sound.dmaAccess (h : Sound s) {a : DmaAccess} : Sound (s.dmaAccess a) := by
  cases a with
  | write pa w =>
    rw [State.dmaAccess, State.dmaWrite]
    split_ifs with _ _ hp
    · exact h.recordFault
    · exact h.recordFault
    · exact h.storePhysical (by simpa using hp)
    · exact h
  | read pa =>
    rw [State.dmaAccess, State.dmaRead]
    split_ifs
    · exact h.recordFault
    · exact h.recordFault
    · exact h
    · exact h

theorem Sound.awaitBus (h : Sound s) : Sound s.awaitBus := by
  unfold State.awaitBus
  split
  · exact h
  · exact List.foldlRecOn (motive := Sound) _ _ { h with } fun _ h _ _ => h.dmaAccess

/-! ### Page registers -/

/-- The page registers after reset have only bits that exist (10_state.md R75, 70_reset_and_hazards.md R661). -/
theorem resetPages_within (c : Config) (g p : Nibble) :
    resetPages[g.toNat][p.toNat] &&& ~~~pageMask c = 0#16 := by
  have both : ∀ g p : Nibble, resetPages[g.toNat][p.toNat] &&& ~~~0xF8FF#16 = 0#16 ∧
      resetPages[g.toNat][p.toNat] &&& ~~~0x08FF#16 = 0#16 := by decide
  unfold pageMask
  split_ifs
  · exact (both g p).1
  · exact (both g p).2

/-- A page register written keeps only bits that exist (10_state.md R75, 40_input_output.md R258). -/
theorem setPageOf_within {file : Vector PageSet 16} {m : Word}
    (h : ∀ g p : Nibble, file[g.toNat][p.toNat] &&& ~~~m = 0#16) (group page : Nibble) (v : Word) (g p : Nibble) :
    (setPageOf file group page (v &&& m))[g.toNat][p.toNat] &&& ~~~m = 0#16 := by
  simp only [setPageOf, Vector.getElem_set]
  split_ifs
  · simp only [Vector.getElem_set]
    split_ifs
    · exact and_within v m
    · exact h group p
  · exact h g p

/-! ### Input and output commands -/

theorem onlyIf_eq_some {α : Type} {b : Bool} {x y : α} : onlyIf b x = some y ↔ b = true ∧ x = y := by
  cases b <;> simp [onlyIf]

theorem groupOutput_ne {c : Config} {cmd : Word} {k : OutCommand} (h : groupOutput c cmd = some k) :
    k ≠ .mpen ∧ k ≠ .dmae := by
  unfold groupOutput at h
  split_ifs at h <;> obtain ⟨-, rfl⟩ := onlyIf_eq_some.1 h <;> exact ⟨nofun, nofun⟩

/-- The commands that enable an option exist only with the option (40_input_output.md R240). -/
theorem outCommand_option {c : Config} {cmd : Word} {k : OutCommand} (h : outCommand c cmd = some k) :
    (k = .mpen → c.hasMprot = true) ∧ (k = .dmae → c.hasDma = true) := by
  unfold outCommand at h
  split at h
  case h_24 => exact ⟨fun e => absurd e (groupOutput_ne h).1, fun e => absurd e (groupOutput_ne h).2⟩
  all_goals
    simp only [onlyIf_eq_some, Option.some.injEq] at h
    constructor <;> rintro rfl <;> simp_all

theorem State.cfg_runOutput (s : State) (c : OutCommand) (v : Word) : (s.runOutput c v).cfg = s.cfg := by
  cases c
  case wsw => exact State.loadSw_cfg s v
  case co => unfold State.runOutput; dsimp only; split_ifs <;> rfl
  all_goals rfl

theorem Sound.runOutput (h : Sound s) {cmd v : Word} {c : OutCommand} (hc : outCommand s.cfg cmd = some c) :
    Sound (s.runOutput c v) := by
  obtain ⟨hmprot, hdma⟩ := outCommand_option hc
  cases c
  case wsw => exact h.loadSw
  case clir => exact { h.clearFaults with held := BitVec.zero_and }
  case spi => exact { h with held := or_within_or h.held v }
  case rpi =>
    refine { h.clearRequests with faults := ?_ }
    show (if _ then _ else _) &&& _ = _
    split_ifs
    · exact BitVec.zero_and
    · exact h.faults
  case co =>
    unfold State.runOutput
    dsimp only
    split_ifs
    · exact { h with }
    · exact h
  case mpen => exact { h with options := ⟨fun _ => hmprot rfl, h.options.2⟩ }
  case dmae => exact { h with options := ⟨h.options.1, fun _ => hdma rfl⟩ }
  case dmad => exact { h with options := ⟨h.options.1, fun hd => Bool.noConfusion hd⟩ }
  case wipr group page =>
    have written := setPageOf_within (fun g p => (h.pages g p).1) group page v
    exact { h with pages := fun g p => ⟨written g p, (h.pages g p).2⟩ }
  case wopr group page =>
    have written := setPageOf_within (fun g p => (h.pages g p).2) group page v
    exact { h with pages := fun g p => ⟨(h.pages g p).1, written g p⟩ }
  all_goals exact { h with }

/-- An input command keeps the configuration and the invariant. -/
theorem Sound.runInput (h : Sound s) {c : InCommand} : Sound (s.runInput c).2 ∧ (s.runInput c).2.cfg = s.cfg := by
  have port {code : Word} : Sound (s.takePortWord code).2 ∧ (s.takePortWord code).2.cfg = s.cfg := by
    unfold State.takePortWord
    split <;> exact ⟨{ h with }, rfl⟩
  cases c
  case pi => exact port
  case spareIn => exact port
  case ci =>
    show Sound s.takeConsoleWord.2 ∧ s.takeConsoleWord.2.cfg = s.cfg
    unfold State.takeConsoleWord
    split <;> exact ⟨{ h with }, rfl⟩
  case rcfr => exact ⟨h.clearRequests.clearFaults, rfl⟩
  all_goals exact ⟨{ h with }, rfl⟩

/-! ### Events -/

/-- The code register takes a channel number, or stays (10_state.md R80). -/
theorem code_lt {b : Bool} {channel : BitVec 7} {w : Word} (h : w.toNat < 128) :
    (if b then channel.setWidth 16 else w).toNat < 128 := by
  split_ifs
  · rw [BitVec.toNat_setWidth]; omega
  · exact h

/-- A reset puts every part of the invariant at its value of `State.reset`, but memory, which it keeps. -/
theorem Sound.resetMachine (h : Sound s) : Sound s.resetMachine where
  canonical := h.canonical
  present := h.present
  faults := BitVec.zero_and
  addressState := groups_pos s.cfg
  pages g p := ⟨resetPages_within s.cfg g p, resetPages_within s.cfg g p⟩
  held := BitVec.zero_and
  codes := by show (0#16).toNat < 128 ∧ (0#16).toNat < 128; decide
  options := ⟨fun h => Bool.noConfusion h, fun h => Bool.noConfusion h⟩

end Updates

end Sys2Proof.Claims
end

section
/-! SUPPORT. The invariant along a step: events, interrupts and instructions keep it, and the configuration with it. -/

namespace Sys2Proof.Claims

open Sys2Proof.Machine

/-- The invariant of a machine of one configuration. -/
def SoundOn (c : Config) (s : State) : Prop := Sound s ∧ s.cfg = c

variable {c : Config} {s : State}

theorem kept_soundOn (c : Config) : Kept (SoundOn c) where
  setReg := fun ⟨h, hc⟩ => ⟨{ h with }, hc⟩
  setCs := fun ⟨h, hc⟩ => ⟨h.setCs, hc⟩
  request := fun ⟨h, hc⟩ => ⟨h.request, hc⟩
  draw := fun ⟨h, hc⟩ => ⟨{ h with }, hc⟩
  awaitBus := fun ⟨h, hc⟩ => ⟨h.awaitBus, (State.cfg_awaitBus _).trans hc⟩
  storePhysical := fun hp ⟨h, hc⟩ => ⟨h.storePhysical hp, hc⟩
  raiseFault := fun ⟨h, hc⟩ => ⟨h.raiseFault, hc⟩
  halt := fun ⟨h, hc⟩ => ⟨{ h with }, hc⟩

theorem keptByCommands_soundOn (c : Config) : KeptByCommands (SoundOn c) where
  runOutput := fun hk ⟨h, hc⟩ => ⟨h.runOutput hk, (State.cfg_runOutput ..).trans hc⟩
  runInput := fun ⟨h, hc⟩ => ⟨h.runInput.1, h.runInput.2.trans hc⟩

theorem keptByJumps_soundOn (c : Config) : KeptByJumps (SoundOn c) where
  jumpTo := fun ⟨h, hc⟩ => ⟨{ h with }, hc⟩

theorem SoundOn.loadContext {x : Context} (h : SoundOn c s) : SoundOn c (s.loadContext x) :=
  ⟨h.1.loadContext, (State.loadSw_cfg _ _).trans h.2⟩

/-- The interrupt sequence keeps the invariant, complete or refused (60_exceptions.md R624, R629). -/
theorem SoundOn.interruptSequence (h : SoundOn c s) {n : Nat} {entry : Nibble} :
    SoundOn c (s.interruptSequence n entry).1 :=
  (kept_soundOn c).interruptSequence (fun ⟨h, hc⟩ => ⟨h.clearRequests, hc⟩) SoundOn.loadContext
    (fun ⟨h, hc⟩ => ⟨{ h with }, hc⟩) (fun ⟨h, hc⟩ => ⟨h.freeze, (State.cfg_freeze ..).trans hc⟩) h

/-- Every instruction keeps the invariant. -/
theorem SoundOn.exec (h : SoundOn c s) (i : Instr) : Ends (SoundOn c) (exec i s) := by
  have K := kept_soundOn c
  have advance {len : Word} : SoundOn c (s.advance len) := (keptByJumps_soundOn c).jumpTo h
  by_cases hb : ∃ n, i = .bex n
  · obtain ⟨n, rfl⟩ := hb
    unfold Machine.exec
    exact ends_completing advance fun h => K.afterWrites h.interruptSequence fun ⟨h, hc⟩ => ⟨{ h with }, hc⟩
  · by_cases hp : Privileged i
    · cases hp with
      | xio => exact K.exec_of_commands (keptByCommands_soundOn c) rfl advance
      | vio => exact K.exec_of_commands (keptByCommands_soundOn c) rfl advance
      | lst =>
        unfold Machine.exec
        exact K.privileged advance (K.onRead (K.readContext advance) SoundOn.loadContext)
      | lsti =>
        unfold Machine.exec
        exact K.privileged advance (K.onPointer advance K.readContext SoundOn.loadContext)
    · exact K.exec_of_jumps (keptByJumps_soundOn c) hp (fun n e => hb ⟨n, e⟩) h

/-- A channel's request keeps the invariant (60_exceptions.md R616). -/
theorem SoundOn.ioRequest {level : IoLevel} {channel : BitVec 7} (h : SoundOn c s) :
    SoundOn c (s.ioRequest level channel) := by
  have K := kept_soundOn c
  have ⟨hs, hc⟩ := h
  unfold State.ioRequest
  cases level with
  | one =>
    by_cases hl : s.cfg.hasIoint1 = true
    · simp only [if_pos hl]
      exact K.requestIf ⟨{ hs with codes := ⟨code_lt hs.codes.1, hs.codes.2⟩ }, hc⟩
    · simpa only [if_neg hl] using h
  | two =>
    by_cases hl : s.cfg.hasIoint2 = true
    · simp only [if_pos hl]
      exact K.requestIf ⟨{ hs with codes := ⟨hs.codes.1, code_lt hs.codes.2⟩ }, hc⟩
    · simpa only [if_neg hl] using h

/-- Every event keeps the invariant (60_exceptions.md R656). -/
theorem SoundOn.applyEvent (h : SoundOn c s) (e : Event) : SoundOn c (s.applyEvent e) := by
  have K := kept_soundOn c
  obtain ⟨hs, hc⟩ := h
  cases e
  case powerDown => exact K.requestIf ⟨hs, hc⟩
  case extInterrupt n => exact K.requestIf ⟨hs, hc⟩
  case ioInterrupt => exact SoundOn.ioRequest ⟨hs, hc⟩
  case tickA =>
    rw [State.applyEvent, State.tickA]
    split_ifs
    · exact K.requestIf ⟨{ hs with }, hc⟩
    · exact ⟨hs, hc⟩
  case tickB =>
    rw [State.applyEvent, State.tickB]
    split_ifs
    · exact K.requestIf ⟨{ hs with }, hc⟩
    · exact ⟨hs, hc⟩
  case extFault => exact ⟨hs.recordFault, hc⟩
  case dma access => exact ⟨hs.dmaAccess, (State.cfg_dmaAccess ..).trans hc⟩
  case goTick =>
    rw [State.applyEvent, State.tickGo]
    split_ifs
    · exact ⟨{ hs with }, hc⟩
    · exact ⟨{ hs with }, hc⟩
  case reset => exact ⟨hs.resetMachine, hc⟩
  case powerUp => exact ⟨{ hs.resetMachine with }, hc⟩
  all_goals exact ⟨{ hs with }, hc⟩

theorem SoundOn.applyEvents (h : SoundOn c s) : SoundOn c s.applyEvents := by
  unfold State.applyEvents
  split
  · exact h
  · exact List.foldlRecOn (motive := SoundOn c) _ _ ⟨{ h.1 with }, h.2⟩ fun _ h e _ => h.applyEvent e

/-- The end of an instruction step only releases held requests (60_exceptions.md R627). -/
theorem SoundOn.endStep (h : SoundOn c s) {s0 : State} : SoundOn c (s0.endStep s) :=
  ⟨{ h.1 with held := and_within_left h.1.held _ }, h.2⟩

theorem SoundOn.instructionStep (h : SoundOn c s) : Ends (SoundOn c) (instructionStep s) := by
  have hf := (kept_soundOn c).fetch (keptByJumps_soundOn c) h
  unfold Machine.instructionStep
  generalize s.fetch = f at hf
  cases f with
  | aborted t => exact ends_next (SoundOn.endStep hf)
  | instruction i u =>
    have hx := SoundOn.exec (s := u) hf i
    dsimp only
    generalize Machine.exec i u = o at hx
    cases o with
    | next t => exact ends_next (hx t rfl).endStep
    | fault f => rintro _ ⟨⟩
    | refused r => rintro _ ⟨⟩

/-- Every step keeps the invariant (60_exceptions.md R628). -/
theorem SoundOn.step (h : SoundOn c s) : Ends (SoundOn c) (step s) := by
  have he := h.applyEvents
  unfold Machine.step
  dsimp only
  split_ifs
  · exact ends_next he
  · split
    · exact ends_next ((kept_soundOn c).afterWrites he.interruptSequence id)
    · exact SoundOn.instructionStep ⟨{ he.1 with }, he.2⟩

end Sys2Proof.Claims

open Sys2Proof Sys2Proof.Machine Sys2Proof.Claims

/-- Settles O8: the events, the interrupt sequence and every instruction keep the invariant. -/
theorem stepKeepsSound : Obligations.StepKeepsSound := by
  unfold Obligations.StepKeepsSound
  intro s t hs ht
  exact SoundOn.step ⟨hs, rfl⟩ t ht
end

section
/-! SUPPORT. Which page register a reference selects (20_memory.md R121), and which fault it meets, check by check in
the order of 20_memory.md R134. -/

namespace Sys2Proof.Machine

/-! ### Translation -/

/-- The four high bits of a logical address. -/
theorem Word.toNat_page (la : Word) : (la.extractLsb' 12 4).toNat = la.toNat / 4096 := by
  rw [BitVec.extractLsb'_toNat, Nat.shiftRight_eq_div_pow]
  omega

/-- The page of an instruction reference. -/
theorem State.pageRegister_instruction (s : State) (la : Word) (g : Nibble) :
    s.pageRegister ⟨la, .instruction, g⟩ = s.pri[g.toNat][la.toNat / 4096]'(by omega) := by
  simp only [State.pageRegister, Word.toNat_page]

/-- The page of an operand reference. -/
theorem State.pageRegister_operand (s : State) (la : Word) (g : Nibble) :
    s.pageRegister ⟨la, .operand, g⟩ = s.pro[g.toNat][la.toNat / 4096]'(by omega) := by
  simp only [State.pageRegister, Word.toNat_page]

/-- With expanded memory the page address stands before the twelve low bits. -/
theorem State.physical_of_xmem {s : State} (h : s.cfg.xmem = true) (r : MemRef) :
    s.physical r = (s.pageRegister r).toNat % 256 * 4096 + r.la.toNat % 4096 := by
  rw [State.physical, if_pos h, BitVec.toNat_append, BitVec.extractLsb'_toNat, BitVec.extractLsb'_toNat,
    Nat.shiftRight_zero, Nat.shiftRight_zero, ← Nat.shiftLeft_add_eq_or_of_lt (by omega), Nat.shiftLeft_eq]

/-- Without it the logical address is the physical one. -/
theorem State.physical_of_not_xmem {s : State} (h : s.cfg.xmem = false) (r : MemRef) :
    s.physical r = r.la.toNat := by
  rw [State.physical, if_neg (by simp [h])]

/-! ### The checks of a reference -/

theorem State.lockRefuses_iff (s : State) (r : MemRef) (key : Nibble) :
    s.lockRefuses r key = true ↔ s.cfg.xmem = true ∧ s.cfg.xmemLock = true ∧
      ¬((s.pageRegister r).extractLsb' 12 4 = 0xF#4 ∨ key = 0#4 ∨ key = (s.pageRegister r).extractLsb' 12 4) := by
  simp [State.lockRefuses, Config.locks, keyOk, and_assoc]

theorem State.pageProtected_iff (s : State) (r : MemRef) :
    s.pageProtected r = true ↔ s.cfg.xmem = true ∧ (s.pageRegister r).getMsbD 4 = true := by
  simp [State.pageProtected, BitVec.getMsbD]

theorem State.blockProtected_iff (s : State) (pa : Nat) :
    s.blockProtected 0 pa = true ↔ s.cfg.hasMprot = true ∧ s.mpen = true ∧
      (s.mpr[pa / 16384]?.getD 0#16).getMsbD (pa / 1024 % 16) = true := by
  simp only [State.blockProtected, Bool.and_eq_true, and_assoc, Nat.zero_add]

theorem State.romOverlays_iff (s : State) (pa : Nat) :
    s.romOverlays pa = true ↔
      s.cfg.hasSurom = true ∧ s.suen = true ∧ pa < s.cfg.surom.length ∧ pa < 65536 := by
  unfold State.romOverlays Config.suromSize
  split_ifs <;> simp_all <;> omega

theorem State.parityBad_iff (s : State) (pa : Nat) :
    s.parityBad pa = true ↔ s.cfg.hasParity = true ∧ pa ∈ s.badParity := by
  simp [State.parityBad]

/-- The three checks of a write that raise the protection fault come before the one of presence. -/
theorem State.writeFault_eq (s : State) (r : MemRef) (key : Nibble) :
    s.writeFault r key =
      if s.lockRefuses r key = true ∨ s.pageProtected r = true ∨ s.blockProtected 0 (s.physical r) = true then
        some .protection
      else if s.cfg.isPresent (s.physical r) = true then none else some .illegalAddress := by
  unfold State.writeFault
  split_ifs <;> simp_all

/-- Two checks of a read raise the protection fault; the start up ROM answers before presence and parity count. -/
theorem State.readFault_eq (s : State) (r : MemRef) (key : Nibble) :
    s.readFault r key =
      if s.lockRefuses r key = true ∨ (r.kind = .instruction ∧ s.pageProtected r = true) then some .protection
      else if s.romOverlays (s.physical r) = true then none
      else if s.cfg.isPresent (s.physical r) = true then
        if s.parityBad (s.physical r) = true then some .parity else none
      else some .illegalAddress := by
  unfold State.readFault
  split_ifs <;> simp_all

theorem State.writeFault_eq_protection_iff (s : State) (r : MemRef) (key : Nibble) :
    s.writeFault r key = some .protection ↔
      s.lockRefuses r key = true ∨ s.pageProtected r = true ∨ s.blockProtected 0 (s.physical r) = true := by
  rw [State.writeFault_eq]
  split_ifs <;> simp [*]

theorem State.writeFault_eq_illegalAddress_iff (s : State) (r : MemRef) (key : Nibble) :
    s.writeFault r key = some .illegalAddress ↔
      ¬(s.lockRefuses r key = true ∨ s.pageProtected r = true ∨ s.blockProtected 0 (s.physical r) = true) ∧
        s.cfg.isPresent (s.physical r) = false := by
  rw [State.writeFault_eq]
  split_ifs <;> simp [*]

theorem State.writeFault_eq_none_iff (s : State) (r : MemRef) (key : Nibble) :
    s.writeFault r key = none ↔
      ¬(s.lockRefuses r key = true ∨ s.pageProtected r = true ∨ s.blockProtected 0 (s.physical r) = true) ∧
        s.cfg.isPresent (s.physical r) = true := by
  rw [State.writeFault_eq]
  split_ifs <;> simp [*]

theorem State.readFault_eq_protection_iff (s : State) (r : MemRef) (key : Nibble) :
    s.readFault r key = some .protection ↔
      s.lockRefuses r key = true ∨ (r.kind = .instruction ∧ s.pageProtected r = true) := by
  rw [State.readFault_eq]
  split_ifs <;> simp [*]

theorem State.readFault_eq_illegalAddress_iff (s : State) (r : MemRef) (key : Nibble) :
    s.readFault r key = some .illegalAddress ↔
      ¬(s.lockRefuses r key = true ∨ (r.kind = .instruction ∧ s.pageProtected r = true)) ∧
        ¬s.romOverlays (s.physical r) = true ∧ s.cfg.isPresent (s.physical r) = false := by
  rw [State.readFault_eq]
  split_ifs <;> simp [*]

theorem State.readFault_eq_parity_iff (s : State) (r : MemRef) (key : Nibble) :
    s.readFault r key = some .parity ↔
      ¬(s.lockRefuses r key = true ∨ (r.kind = .instruction ∧ s.pageProtected r = true)) ∧
        ¬s.romOverlays (s.physical r) = true ∧ s.cfg.isPresent (s.physical r) = true ∧
        s.parityBad (s.physical r) = true := by
  rw [State.readFault_eq]
  split_ifs <;> simp [*]

end Sys2Proof.Machine

open Sys2Proof Sys2Proof.Machine Sys2Proof.Claims

/-- Settles O14: a reference is translated by the page register of its kind, of the address state and of its page. -/
theorem addressTranslation : Obligations.AddressTranslation := by
  unfold Obligations.AddressTranslation
  intro s la
  have hread : s.read la = (s.awaitBus.readWord ⟨la, .operand, s.as⟩ s.ps, s.awaitBus) := rfl
  have hgroup : s.as.toNat = s.sw.toNat % 16 := BitVec.extractLsb'_toNat ..
  refine ⟨rfl, hgroup, rfl, hread, fun h g => ⟨?_, ?_⟩, State.physical_of_not_xmem⟩
  · rw [State.physical_of_xmem h, State.pageRegister_instruction]
  · rw [State.physical_of_xmem h, State.pageRegister_operand]

/-- Settles O15: the checks of a write and of a read, in their order, each by what it looks at. -/
theorem referenceFaults : Obligations.ReferenceFaults := by
  unfold Obligations.ReferenceFaults
  intro s r key lock locked barred block rom
  have hlock : s.lockRefuses r key = true ↔ locked := State.lockRefuses_iff s r key
  have hpage : s.pageProtected r = true ↔ barred := State.pageProtected_iff s r
  have hblock : s.blockProtected 0 (s.physical r) = true ↔ block := State.blockProtected_iff s (s.physical r)
  have hrom : s.romOverlays (s.physical r) = true ↔ rom := State.romOverlays_iff s (s.physical r)
  rw [← hlock, ← hpage, ← hblock, ← hrom, ← State.parityBad_iff]
  exact ⟨State.writeFault_eq_protection_iff s r key, State.writeFault_eq_illegalAddress_iff s r key,
    State.writeFault_eq_none_iff s r key, State.readFault_eq_protection_iff s r key,
    State.readFault_eq_illegalAddress_iff s r key, State.readFault_eq_parity_iff s r key⟩
end

section
/-! SUPPORT. References that the DMA accesses waiting on the bus come before (20_memory.md R151, R153; log 17): what
an operand read and an operand write do after them, and what the instructions that replace a word of memory leave. An
instruction makes its references with IC already past its words. -/

namespace Sys2Proof.Machine

/-! ### A reference in its turn on the bus -/

@[simp] theorem State.direct_awaitBus (s : State) (addr : Word) (rx : Reg) :
    s.awaitBus.direct addr rx = s.direct addr rx := by
  rw [State.awaitBus_eq]; rfl

/-- A read that is allowed after the accesses before it delivers the word that is there then. -/
theorem State.read_of_awaitBus {s : State} {la : Word} (len : Word)
    (h : s.awaitBus.readFault (s.awaitBus.operandRef la) s.awaitBus.ps = none) :
    (s.advance len).read la = (.ok (s.awaitBus.wordAt la), s.awaitBus.advance len) := by
  have hword : s.awaitBus.readWord (s.awaitBus.operandRef la) s.awaitBus.ps = .ok (s.awaitBus.wordAt la) :=
    State.readWord_of_allowed h
  rw [State.operandRef_awaitBus, State.ps_awaitBus] at hword
  rw [State.read, State.reference, State.awaitBus_advance, ← hword]; rfl

/-- One word written, alone: it is stored after the accesses before it, and the instruction goes on. -/
theorem State.writeThen_of_awaitBus {s : State} {la w : Word} {k : State → State} (len : Word)
    (h : s.awaitBus.writeFault (s.awaitBus.operandRef la) s.awaitBus.ps = none) :
    (s.advance len).writeThen [(la, w)] k =
      k ((s.awaitBus.storePhysical (s.awaitBus.target la) w).advance len) := by
  have hfault : s.writeFault ⟨la, .operand, s.as⟩ s.ps = none := by simpa [State.operandRef] using h
  have htarget : s.awaitBus.target la = s.physical ⟨la, .operand, s.as⟩ := by simp [State.target, State.operandRef]
  simp only [State.writeThen, State.writeAll, State.writeWord, State.awaitBus_advance, State.as_advance,
    State.ps_advance, State.writeFault_advance, State.writeFault_awaitBus, State.physical_advance,
    State.physical_awaitBus, hfault, htarget]
  rfl

/-! ### A word that is replaced -/

theorem State.cell_of_awaitBus {s : State} {da : Word} (len : Word)
    (h : s.awaitBus.readFault (s.awaitBus.operandRef da) s.awaitBus.ps = none) :
    (s.advance len).cell da = (.ok (da, s.awaitBus.wordAt da), s.awaitBus.advance len) := by
  rw [State.cell, State.read_of_awaitBus len h]; rfl

/-- The word of an indirect cell is read in its turn after the pointer. -/
theorem State.indirectCell_of_awaitBus {s : State} {addr : Word} {rx : Reg} {da : Word} (len : Word)
    (hp : s.awaitBus.readFault (s.awaitBus.operandRef (s.direct addr rx)) s.awaitBus.ps = none)
    (hda : s.awaitBus.wordAt (s.direct addr rx) = da)
    (h : s.awaitBus.awaitBus.readFault (s.awaitBus.awaitBus.operandRef da) s.awaitBus.awaitBus.ps = none) :
    (s.advance len).indirectCell addr rx =
      (.ok (da, s.awaitBus.awaitBus.wordAt da), s.awaitBus.awaitBus.advance len) := by
  rw [State.indirectCell, State.indirect, State.direct_advance, State.read_of_awaitBus len hp, hda]
  exact State.cell_of_awaitBus len h

/-- The word computed from what was read is stored whole, over what the accesses between the two have left. -/
theorem storeBack_of_awaitBus {s : State} {f : State → Word → Word} {da v : Word} (len : Word)
    (h : s.awaitBus.writeFault (s.awaitBus.operandRef da) s.awaitBus.ps = none) :
    storeBack f (da, v) (s.advance len) =
      { s.awaitBus.storePhysical (s.awaitBus.target da) (f (s.advance len) v) with ic := s.ic + len } := by
  rw [← State.ic_awaitBus]; exact State.writeThen_of_awaitBus len h

/-- INCM and DECM store the sum or difference of what was read. -/
theorem mem_updateMemory_of_awaitBus {s : State} {op : Word → Word → FixedSum 16} {n : Nat} {da v : Word} (len : Word)
    (h : s.awaitBus.writeFault (s.awaitBus.operandRef da) s.awaitBus.ps = none) :
    (updateMemory op n (da, v) (s.advance len)).mem =
      (s.awaitBus.storePhysical (s.awaitBus.target da) (op v (BitVec.ofNat 16 n)).value).mem := by
  rw [updateMemory, State.writeThen_of_awaitBus len h]; rfl

/-- TSB stores at once what it has read, with nothing between the two (20_memory.md R153). -/
theorem testAndSet_of_allowed {s : State} {n : Nibble} {da v : Word}
    (h : s.writeFault (s.operandRef da) s.ps = none) :
    testAndSet n (da, v) s = (s.storePhysical (s.target da) (v ||| bitMask n.toNat)).setCs (csBit v n) := by
  simp only [testAndSet, State.writeWord, h]; rfl

end Sys2Proof.Machine

namespace Sys2Proof.Claims

open Sys2Proof.Machine

/-- Cut off to the width of a word, an exact difference is the difference of words. -/
theorem subFixed_value_eq_sub {w : Nat} (a b : BitVec w) : (subFixed a b).value = a - b :=
  BitVec.eq_of_toInt_eq (by rw [subFixed_value, BitVec.toInt_ofInt, BitVec.toInt_sub])

/-- An instruction whose operand is read goes on in the state after the reads. -/
theorem onOperand_of_read {α : Type} {s t : State} {len : Word} {operand : State → Reading α} {v : α}
    (h : operand (s.advance len) = (.ok v, t)) (k : α → State → State) : onOperand s len operand k = .next (k v t) := by
  rw [onOperand, h]; rfl

/-- An instruction that replaces the word at a direct address goes on after the accesses before its read. -/
theorem on_directCell_of_awaitBus {s : State} {addr : Word} {rx : Reg}
    (h : s.awaitBus.readFault (s.awaitBus.operandRef (s.direct addr rx)) s.awaitBus.ps = none) (len : Word)
    (k : Word × Word → State → State) :
    onOperand s len (·.directCell addr rx) k =
      .next (k (s.direct addr rx, s.awaitBus.wordAt (s.direct addr rx)) (s.awaitBus.advance len)) :=
  onOperand_of_read (State.cell_of_awaitBus len h) k

/-- The instructions of this shape read a direct or an indirect cell and store a word back that depends on the word
read and on the registers only. -/
theorem ModifyForm.exec_eq_storeBack {s : State} {i : Instr} {q : Operand} {f : Word → Word} (h : ModifyForm s i q f) :
    ∃ (g : State → Word → Word) (addr : Word) (rx : Reg), (∀ u : State, u.regs = s.regs → g u = f) ∧
      (q = .direct addr rx ∧ exec i s = onOperand s 2 (·.directCell addr rx) (storeBack g) ∨
        q = .indirect addr rx ∧ exec i s = onOperand s 2 (·.indirectCell addr rx) (storeBack g)) := by
  have same {u : State} (hu : u.regs = s.regs) (r : Reg) : u.reg r = s.reg r := by rw [State.reg, hu]; rfl
  cases h with
  | sb | rb => exact ⟨_, _, _, fun _ _ => rfl, .inl ⟨rfl, rfl⟩⟩
  | sbi | rbi => exact ⟨_, _, _, fun _ _ => rfl, .inr ⟨rfl, rfl⟩⟩
  | srm ra =>
    refine ⟨_, _, _, fun u hu => ?_, .inl ⟨rfl, rfl⟩⟩
    simp only [throughMask, same hu]
  | stub ra | stlb ra =>
    refine ⟨_, _, _, fun u hu => funext fun w => ?_, .inl ⟨rfl, rfl⟩⟩
    simp only [putUpper, putLower, withUpperByte, withLowerByte, same hu]
  | subi ra | slbi ra =>
    refine ⟨_, _, _, fun u hu => funext fun w => ?_, .inr ⟨rfl, rfl⟩⟩
    simp only [putUpper, putLower, withUpperByte, withLowerByte, same hu]

end Sys2Proof.Claims

open Sys2Proof Sys2Proof.Machine Sys2Proof.Claims

/-- Settles O24: each reference comes after the accesses that wait for it, and the write of TSB waits for none. -/
theorem dmaBetweenReferences : Obligations.DmaBetweenReferences := by
  unfold Obligations.DmaBetweenReferences
  refine ⟨fun s => State.awaitBus_of_quiet, fun s now later => State.awaitBus_of_waiting, ?modify, ?count, ?testAndSet⟩
  case modify =>
    intro s i q f form p r w da hp haddr hread hwrite
    obtain ⟨g, addr, rx, hg, ⟨rfl, hexec⟩ | ⟨rfl, hexec⟩⟩ := form.exec_eq_storeBack
    · obtain rfl : s.direct addr rx = da := Option.some.inj haddr
      have hregs : (r.advance 2).regs = s.regs := State.regs_awaitBus s
      rw [hexec, on_directCell_of_awaitBus hread, storeBack_of_awaitBus 2 hwrite, hg _ hregs, State.ic_awaitBus]
    · have hda : p.wordAt (s.direct addr rx) = da := by
        rw [← State.direct_awaitBus]; exact Option.some.inj haddr
      have hregs : (r.advance 2).regs = s.regs := (State.regs_awaitBus p).trans (State.regs_awaitBus s)
      rw [hexec, onOperand_of_read (State.indirectCell_of_awaitBus 2 (hp addr rx rfl) hda hread),
        storeBack_of_awaitBus 2 hwrite, hg _ hregs, State.ic_awaitBus, State.ic_awaitBus]
  case count =>
    intro s n addr rx r w da hread hwrite
    refine ⟨_, _, on_directCell_of_awaitBus hread 2 _, on_directCell_of_awaitBus hread 2 _,
      mem_updateMemory_of_awaitBus 2 hwrite, (mem_updateMemory_of_awaitBus 2 hwrite).trans ?_⟩
    rw [subFixed_value_eq_sub]
  case testAndSet =>
    intro s n addr rx r da hread hwrite
    have hset := testAndSet_of_allowed (s := r.advance 2) (n := n) (v := r.wordAt da) hwrite
    refine ⟨_, on_directCell_of_awaitBus hread 2 _, ?_, ?_⟩
    · rw [hset]; rfl
    · rw [hset]; rfl
end

section
/-! SUPPORT. The writes of an instruction as one operation: what every instruction that writes memory does once its
reads are made, and what is left when one of its writes is refused (20_memory.md R141, 60_exceptions.md R601). -/

namespace Sys2Proof.Machine

theorem State.storeAll_advance (s : State) (len : Word) (ps : List (Nat × Word)) :
    (s.advance len).storeAll ps = (s.storeAll ps).advance len := by
  induction ps generalizing s with
  | nil => rfl
  | cons p rest ih => exact ih (s.storePhysical p.1 p.2)

@[simp] theorem State.ic_storeAll (s : State) (ps : List (Nat × Word)) : (s.storeAll ps).ic = s.ic := by
  rw [State.storeAll_eq]

/-- TSB writes as any instruction does, while no DMA access waits (20_memory.md R153). -/
theorem testAndSet_eq_writeThen {s : State} (hb : s.bus = []) (n : Nibble) (cell : Word × Word) :
    testAndSet n cell s = s.writeThen [(cell.1, withBit cell.2 n)] (testBit n cell.2) := by
  simp only [testAndSet, State.writeThen, State.writeAll, State.awaitBus_of_quiet hb]
  show afterWrites (s.writeWord ⟨cell.1, .operand, s.as⟩ s.ps _) _ = _
  generalize s.writeWord _ s.ps _ = x
  obtain ⟨t, a⟩ := x
  cases a <;> rfl

/-! ### The stores of PSHM -/

theorem Word.sub_succ (sp : Word) (k : Nat) : sp - BitVec.ofNat 16 (k + 1) = sp - 1 - BitVec.ofNat 16 k := by
  rw [BitVec.ofNat_add, BitVec.sub_sub, BitVec.add_comm]; rfl

/-- Word `k` of a push is register `f k`, `k + 1` words below the stack pointer. -/
theorem pushes_map_range (sp : Word) (f : Nat → Reg) (n : Nat) (s : State) :
    pushes sp ((List.range n).map f) s = (List.range n).map fun k =>
      (sp - 1 - BitVec.ofNat 16 k, if f k = 15 then sp - 1 - BitVec.ofNat 16 k else s.reg (f k)) := by
  induction n generalizing sp f with
  | zero => rfl
  | succ n ih =>
    rw [List.range_succ_eq_map, List.map_cons, List.map_cons, List.map_map, List.map_map, pushes, ih,
      BitVec.sub_zero]
    refine congrArg _ (List.map_congr_left fun k _ => ?_)
    simp only [Function.comp, Nat.succ_eq_add_one, Word.sub_succ]

/-- The registers from the last to the first. -/
theorem reverse_regsFromTo (ra rb : Reg) :
    (regsFromTo ra rb).reverse = (List.range ((rb - ra).toNat + 1)).map fun k => rb - BitVec.ofNat 4 k := by
  refine List.ext_getElem (by simp [regsFromTo]) fun k hk _ => ?_
  have hle : k < (rb - ra).toNat + 1 := by simpa [regsFromTo] using hk
  simp only [regsFromTo, List.getElem_reverse, List.getElem_map, List.getElem_range, List.length_map,
    List.length_range]
  bv_omega

end Sys2Proof.Machine

namespace Sys2Proof.Claims

open Sys2Proof.Machine

theorem Operand.readable_direct {s : State} {addr : Word} {rx : Reg} (h : s.Readable (s.direct addr rx) 1) :
    (Operand.direct addr rx).Readable s 1 :=
  ⟨trivial, fun _ hda => Option.some.inj hda ▸ h⟩

/-- TSB, its word readable, goes on to one write (41_bit.md R300). -/
theorem exec_tsb_of_readable {s : State} {addr : Word} {rx : Reg} (h : s.Readable (s.direct addr rx) 1) (n : Nibble) :
    exec (.tsb n addr rx) s = .next ((s.advance 2).writeThen
      [(s.direct addr rx, s.wordAt (s.direct addr rx) ||| bitMask n.toNat)]
      (testBit n (s.wordAt (s.direct addr rx)))) :=
  (on_directCell (Operand.readable_direct h) 2 (testAndSet n)).trans
    (congrArg _ (testAndSet_eq_writeThen (s := s.advance 2) h.1 n _))

/-- MOV, its count not run out and its word readable, moves that word (45_store.md R409). -/
theorem exec_mov_of_readable {s : State} {ra rb : Reg} (hc : s.reg (ra + 1) ≠ 0#16) (h : s.Readable (s.reg rb) 1) :
    exec (.mov ra rb) s = .next (moveWord ra rb s.ic (s.wordAt (s.reg rb)) (s.advance 1)) :=
  (if_neg hc).trans (onOperand_of_ok (State.read_of_readable (s := s.advance 1) h (by omega)) _)

/-- What is left when a write of an instruction is refused. -/
theorem writeThen_eq_aborted {s : State} {len : Word} {before rest : List (Word × Word)} {la w : Word}
    {k : State → State} {f : CpuFault} (hb : s.bus = [])
    (h : ∀ p ∈ before, s.writeFault (s.operandRef p.1) s.ps = none)
    (hf : s.writeFault (s.operandRef la) s.ps = some f) :
    (s.advance len).writeThen (before ++ (la, w) :: rest) k =
      aborted (s.storeAll (before.map fun p => (s.target p.1, p.2))) (s.ic + len) f.bit (some (s.operandRef la)) := by
  rw [State.writeThen_of_refused (s := s.advance len) hb h hf]
  simp only [State.target_advance, State.operandRef_advance]
  rw [State.storeAll_advance, ← State.ic_storeAll s]
  rfl

/-- An instruction that writes memory, its reads allowed, writes its words in order and goes on when all are made;
the word of a MOV whose registers overlap is a free value (log 13). -/
theorem StoresInOrder.exec_eq_writeThen {s : State} {i : Instr} {len : Word} {ws : List (Word × Word)}
    (h : StoresInOrder s i len ws) :
    ∃ k, exec i s = .next ((s.advance len).writeThen ws k) ∨
      ∃ la v w, ws = [(la, v)] ∧ exec i s = .next ((s.advance len).writeThen [(la, w)] k) := by
  cases h with
  | store form reached address =>
    obtain ⟨da, hda, hexec⟩ := form.exec_eq reached
    obtain rfl := Option.some.inj (address.symm.trans hda)
    exact ⟨_, .inl hexec⟩
  | storeConstant form reached address =>
    obtain ⟨da, hda, hexec⟩ := form.exec_eq reached
    obtain rfl := Option.some.inj (address.symm.trans hda)
    rw [BitVec.ofNat_toNat]
    exact ⟨_, .inl hexec⟩
  | stm n addr rx =>
    have hexec : exec (.stm n addr rx) s =
      .next ((s.advance 2).store (s.direct addr rx) ((regsTo n).map s.reg)) := rfl
    rw [regsTo, List.map_map] at hexec
    exact ⟨_, .inl hexec⟩
  | modify form readable address =>
    obtain ⟨da, hda, -, hexec⟩ := form.exec_eq readable
    obtain rfl := Option.some.inj (address.symm.trans hda)
    exact ⟨_, .inl hexec⟩
  | tsb n addr rx readable => exact ⟨_, .inl (exec_tsb_of_readable readable n)⟩
  | incm n addr rx readable =>
    exact ⟨_, .inl (on_directCell (Operand.readable_direct readable) 2 (updateMemory addFixed n))⟩
  | decm n addr rx readable =>
    rw [← subFixed_value_eq_sub]
    exact ⟨_, .inl (on_directCell (Operand.readable_direct readable) 2 (updateMemory subFixed n))⟩
  | mov ra rb w count readable word =>
    have hexec := exec_mov_of_readable count readable
    by_cases overlap : moveOverlaps ra rb = true
    · exact ⟨_, .inr ⟨_, _, _, rfl, hexec.trans (congrArg _ (if_pos overlap))⟩⟩
    · obtain ⟨ha, hc⟩ : rb ≠ ra ∧ rb ≠ ra + 1 := by simpa [moveOverlaps] using overlap
      rw [word ha hc]
      exact ⟨_, .inl (hexec.trans (congrArg _ (if_neg overlap)))⟩
  | pshm ra rb =>
    have hexec : exec (.pshm ra rb) s = .next ((s.advance 1).writeThen
      (pushes (s.reg 15) (regsFromTo ra rb).reverse (s.advance 1)) _) := rfl
    rw [reverse_regsFromTo, pushes_map_range] at hexec
    exact ⟨_, .inl hexec⟩
  | sjs ra addr rx => exact ⟨_, .inl rfl⟩

end Sys2Proof.Claims

open Sys2Proof Sys2Proof.Machine Sys2Proof.Claims

/-- Settles O23: the writes are made in order up to the one that is refused, which aborts the instruction. -/
theorem refusedStoreAborts : Obligations.RefusedStoreAborts := by
  unfold Obligations.RefusedStoreAborts
  intro i s len before after la w k stores quiet allowed refused
  obtain ⟨next, hexec | ⟨la', v, w', hws, hexec⟩⟩ := stores.exec_eq_writeThen
  · rw [hexec, writeThen_eq_aborted quiet allowed refused]
  · obtain ⟨rfl, hws⟩ | ⟨-, hws⟩ := List.append_eq_singleton_iff.1 hws
    · obtain ⟨⟨rfl, -⟩, rfl⟩ : ((la = la' ∧ w = v) ∧ after = []) := by simpa using hws
      rw [hexec]
      exact congrArg _ (writeThen_eq_aborted (before := []) quiet allowed refused)
    · exact absurd hws (List.cons_ne_nil _ _)
end

section
/-! SUPPORT. The decoder by formats: a first word is made of its fields, what each branch of the decoder answers, and
that the tables of the decoder and the encoder agree on every operation code (30_encoding.md R170 to R178, R195 to
R211). -/

namespace Sys2Proof

/-! ### A first word is made of its fields -/

theorem wordOfByte_fields (w : Word) : wordOfByte (opByte w) (lowByte w) = w :=
  (BitVec.extractLsb'_append_extractLsb'_eq_extractLsb' rfl).trans BitVec.extractLsb'_eq_self

theorem fieldOne_append_fieldTwo (w : Word) : fieldOne w ++ fieldTwo w = lowByte w :=
  BitVec.extractLsb'_append_extractLsb'_eq_extractLsb' rfl

theorem wordOf_fields (w : Word) : wordOf (opByte w) (fieldOne w) (fieldTwo w) = w :=
  calc wordOf (opByte w) (fieldOne w) (fieldTwo w)
    _ = wordOfByte (opByte w) (fieldOne w ++ fieldTwo w) := BitVec.append_assoc
    _ = w := by rw [fieldOne_append_fieldTwo, wordOfByte_fields]

/-- The first two bits of a first word, which mark a base relative one, are those of its first byte. -/
theorem topTwo_eq (w : Word) : w.extractLsb' 14 2 = (opByte w).extractLsb' 6 2 := by
  rw [← topTwo_wordOf (opByte w) (fieldOne w) (fieldTwo w), wordOf_fields]

/-- The first six bits of a first word, which mark a base relative indexed one, are those of its first byte. -/
theorem topSix_eq (w : Word) : w.extractLsb' 10 6 = (opByte w).extractLsb' 2 6 := by
  rw [← topSix_wordOf (opByte w) (fieldOne w) (fieldTwo w), wordOf_fields]

theorem opByte_eq_topSix_append (w : Word) : w.extractLsb' 10 6 ++ w.extractLsb' 8 2 = opByte w :=
  BitVec.extractLsb'_append_extractLsb'_eq_extractLsb' rfl

theorem topSix_eq_topTwo_append (w : Word) : w.extractLsb' 14 2 ++ w.extractLsb' 10 4 = w.extractLsb' 10 6 :=
  BitVec.extractLsb'_append_extractLsb'_eq_extractLsb' rfl

theorem baseField_low (w : Word) : (baseField w).extractLsb' 0 2 = w.extractLsb' 8 2 := by
  have key : ∀ x : BitVec 2, (3#2 ++ x : Reg).extractLsb' 0 2 = x := by decide
  exact key _

/-- The two bits BR name the base registers only (30_encoding.md R175). -/
theorem baseOk_baseField (w : Word) : baseOk (baseField w) = true := by
  have key : ∀ x : BitVec 2, baseOk (3#2 ++ x) = true := by decide
  exact key _

theorem wordOfBase_fields (w : Word) : wordOfBase (w.extractLsb' 10 6) (baseField w) (lowByte w) = w := by
  rw [wordOfBase, baseField_low, opByte_eq_topSix_append]; exact wordOfByte_fields w

theorem wordOfBaseIndexed_fields {w : Word} (h : w.extractLsb' 10 6 = 16#6) :
    wordOfBaseIndexed (fieldOne w) (baseField w) (fieldTwo w) = w := by
  rw [wordOfBaseIndexed, baseField_low, ← h, opByte_eq_topSix_append]; exact wordOf_fields w

/-- The two bits BR of a base relative word are those of the base register (30_encoding.md R175). -/
theorem baseField_wordOfBase (op : BitVec 6) {br : Reg} (du : Byte) (h : baseOk br = true) :
    baseField (wordOfBase op br du) = br := by
  have hbits : (wordOfBase op br du).extractLsb' 8 2 = br.extractLsb' 0 2 := by
    rw [wordOfBase, BitVec.extractLsb'_append_eq_of_le (by omega), BitVec.extractLsb'_append_eq_right]
  rw [baseField, hbits, base_of_ok br h]

theorem baseField_wordOfBaseIndexed (ext : Nibble) {br : Reg} (rx : Reg) (h : baseOk br = true) :
    baseField (wordOfBaseIndexed ext br rx) = br :=
  calc baseField (wordOfBaseIndexed ext br rx)
    _ = baseField (wordOfBase 16#6 br (ext ++ rx)) := congrArg baseField BitVec.append_assoc
    _ = br := baseField_wordOfBase 16#6 (ext ++ rx) h

/-- A count field holds one of the counts 1 to 16 (30_encoding.md R187, R216). -/
theorem countOk_field (x : Nibble) : countOk (x.toNat + 1) = true := by
  have := x.isLt
  simp only [countOk, Bool.and_eq_true, decide_eq_true_eq]
  omega

theorem countField_succ (x : Nibble) : countField (x.toNat + 1) = x := BitVec.ofNat_toNat ..

/-! ### The branches of the decoder -/

/-- The first bytes that the operation code table decodes: those that no base relative instruction has, and that need
no extension (30_encoding.md R198 to R209). -/
def plainOp (op : Byte) : Bool :=
  op.extractLsb' 6 2 != 0#2 && op.extractLsb' 2 6 != 16#6 && op != 0x4A#8 && op != 0xFF#8

theorem opByte_cases (op : Byte) :
    op.extractLsb' 6 2 = 0#2 ∨ op.extractLsb' 2 6 = 16#6 ∨ op = 0x4A#8 ∨ op = 0xFF#8 ∨ plainOp op = true := by
  unfold plainOp
  grind

section Branches

variable {w0 : Word} (w1 : Word)

theorem decode_of_base (h : (opByte w0).extractLsb' 6 2 = 0#2) :
    decode w0 w1 = some (baseTable (w0.extractLsb' 10 4) (baseField w0) (lowByte w0)) :=
  if_pos ((topTwo_eq w0).trans h)

theorem decode_of_baseIndexed (h : (opByte w0).extractLsb' 2 6 = 16#6) :
    decode w0 w1 = some (baseIndexedTable (fieldOne w0) (baseField w0) (fieldTwo w0)) := by
  have key : ∀ op : Byte, op.extractLsb' 2 6 = 16#6 → op.extractLsb' 6 2 ≠ 0#2 := by decide
  rw [decode, topTwo_eq, topSix_eq, if_neg (key _ h), if_pos h]

theorem decode_of_immediate (h : opByte w0 = 0x4A#8) :
    decode w0 w1 = (immediateTable (fieldTwo w0)).map fun k => k (fieldOne w0) w1 := by
  rw [decode, topTwo_eq, topSix_eq, h, if_neg (by decide), if_neg (by decide), if_pos rfl]

theorem decode_of_allOnes (h : opByte w0 = 0xFF#8) :
    decode w0 w1 =
      if lowByte w0 = 0x00#8 then some .nop else if lowByte w0 = 0xFF#8 then some .bpt else none := by
  rw [decode, topTwo_eq, topSix_eq, h, if_neg (by decide), if_neg (by decide), if_neg (by decide), if_pos rfl]

theorem decode_of_plain (h : plainOp (opByte w0) = true) :
    decode w0 w1 = (opTable (opByte w0)).bind fun f => f.build w0 w1 := by
  simp only [plainOp, Bool.and_eq_true, bne_iff_ne] at h
  obtain ⟨⟨⟨htwo, hsix⟩, himm⟩, hones⟩ := h
  rw [decode, topTwo_eq, topSix_eq, if_neg htwo, if_neg hsix, if_neg himm, if_neg hones]

theorem decode_of_opTable {f : Form} (h : opTable (opByte w0) = some f) : decode w0 w1 = f.build w0 w1 := by
  have key : ∀ op : Byte, (opTable op).isSome = true → plainOp op = true := by decide
  rw [decode_of_plain w1 (key _ (by rw [h]; rfl)), h]; rfl

end Branches

/-! ### How long an instruction is -/

/-- Whether an instruction of a form has a second word (30_encoding.md R172). -/
def Form.twoWords (f : Form) : Bool :=
  match f with
  | .long _ | .longCount _ | .longZero _ => true
  | _ => false

/-- The list of the first bytes of two word instructions agrees with the forms of the operation code table. -/
theorem isLong_of_opTable {w0 : Word} {f : Form} (h : opTable (opByte w0) = some f) : isLong w0 = f.twoWords := by
  have key : ∀ op : Byte, ((opTable op).all fun f => longOps.contains op.toNat == f.twoWords) = true := by decide
  have := key (opByte w0)
  rw [h] at this
  exact beq_iff_eq.1 this

theorem isLong_of_base {w0 : Word} (h : (opByte w0).extractLsb' 6 2 = 0#2) : isLong w0 = false := by
  have key : ∀ op : Byte, op.extractLsb' 6 2 = 0#2 → longOps.contains op.toNat = false := by decide
  exact key _ h

theorem isLong_of_baseIndexed {w0 : Word} (h : (opByte w0).extractLsb' 2 6 = 16#6) : isLong w0 = false := by
  have key : ∀ op : Byte, op.extractLsb' 2 6 = 16#6 → longOps.contains op.toNat = false := by decide
  exact key _ h

end Sys2Proof
end

section
/-! SUPPORT. The words of a well-formed instruction decode to it, format by format. -/

namespace Sys2Proof

/-! ### The words of each form decode -/

/-- The words of an instruction of a form, from a first word and a second one (30_encoding.md R172). -/
def Form.words (f : Form) (w0 w1 : Word) : List Word := if f.twoWords then [w0, w1] else [w0]

theorem decodeWords_single {w0 : Word} (h : isLong w0 = false) : decodeWords [w0] = decode w0 0#16 := by
  rw [decodeWords, h]; rfl

theorem decodeWords_pair {w0 w1 : Word} (h : isLong w0 = true) : decodeWords [w0, w1] = decode w0 w1 := if_pos h

/-- A form without a second word does not look at one (30_encoding.md R179). -/
theorem Form.build_congr {f : Form} (h : f.twoWords = false) (w0 w1 w1' : Word) : f.build w0 w1 = f.build w0 w1' := by
  cases f with
  | long | longCount | longZero => simp [Form.twoWords] at h
  | regReg | regCount | countReg | second | first | relative => rfl

theorem decodeWords_of_opTable {w0 : Word} {f : Form} (h : opTable (opByte w0) = some f) (w1 : Word) :
    decodeWords (f.words w0 w1) = f.build w0 w1 := by
  have hlong := isLong_of_opTable h
  unfold Form.words
  cases htwo : f.twoWords with
  | true => rw [if_pos rfl, decodeWords_pair (hlong.trans htwo), decode_of_opTable w1 h]
  | false =>
    rw [if_neg (by decide), decodeWords_single (hlong.trans htwo), decode_of_opTable _ h, Form.build_congr htwo]

/-! ### One lemma per format: what the encoder writes, the decoder reads -/

/-- An instruction is read back from the words that the encoder gives it. -/
def Decodes (i : Instr) : Prop := decodeWords (encode i) = some i

theorem decodes_of_build {i : Instr} {f : Form} {w0 w1 : Word} (henc : encode i = f.words w0 w1)
    (hop : opTable (opByte w0) = some f) (hbuild : f.build w0 w1 = some i) : Decodes i := by
  rw [Decodes, henc, decodeWords_of_opTable hop, hbuild]

section Formats

variable {op : Byte} {a b : Nibble} {n : Nat} {w : Word}

theorem Decodes.of_regReg {k : Nibble → Nibble → Instr} (henc : encode (k a b) = [wordOf op a b])
    (hop : opTable op = some (.regReg k)) : Decodes (k a b) :=
  decodes_of_build (f := .regReg k) (w1 := 0#16) henc (by rwa [opByte_wordOf])
    (by rw [Form.build, fieldOne_wordOf, fieldTwo_wordOf])

theorem Decodes.of_regCount {k : Reg → Nat → Instr} (hn : countOk n = true)
    (henc : encode (k a n) = [wordOf op a (countField n)]) (hop : opTable op = some (.regCount k)) :
    Decodes (k a n) :=
  decodes_of_build (f := .regCount k) (w1 := 0#16) henc (by rwa [opByte_wordOf])
    (by rw [Form.build, fieldOne_wordOf, fieldTwo_wordOf, count_of_ok n hn])

theorem Decodes.of_countReg {k : Reg → Nat → Instr} (hn : countOk n = true)
    (henc : encode (k b n) = [wordOf op (countField n) b]) (hop : opTable op = some (.countReg k)) :
    Decodes (k b n) :=
  decodes_of_build (f := .countReg k) (w1 := 0#16) henc (by rwa [opByte_wordOf])
    (by rw [Form.build, fieldOne_wordOf, fieldTwo_wordOf, count_of_ok n hn])

theorem Decodes.of_second {k : Nibble → Instr} (henc : encode (k b) = [wordOf op 0#4 b])
    (hop : opTable op = some (.second k)) : Decodes (k b) :=
  decodes_of_build (f := .second k) (w1 := 0#16) henc (by rwa [opByte_wordOf])
    (by rw [Form.build, fieldOne_wordOf, fieldTwo_wordOf, if_pos rfl])

theorem Decodes.of_first {k : Nibble → Instr} (henc : encode (k a) = [wordOf op a 0#4])
    (hop : opTable op = some (.first k)) : Decodes (k a) :=
  decodes_of_build (f := .first k) (w1 := 0#16) henc (by rwa [opByte_wordOf])
    (by rw [Form.build, fieldOne_wordOf, fieldTwo_wordOf, if_pos rfl])

theorem Decodes.of_relative {k : Byte → Instr} {d : Byte} (henc : encode (k d) = [wordOfByte op d])
    (hop : opTable op = some (.relative k)) : Decodes (k d) :=
  decodes_of_build (f := .relative k) (w1 := 0#16) henc (by rwa [opByte_wordOfByte])
    (by rw [Form.build, lowByte_wordOfByte])

theorem Decodes.of_long {k : Nibble → Word → Reg → Instr} (henc : encode (k a w b) = [wordOf op a b, w])
    (hop : opTable op = some (.long k)) : Decodes (k a w b) :=
  decodes_of_build (f := .long k) henc (by rwa [opByte_wordOf])
    (by rw [Form.build, fieldOne_wordOf, fieldTwo_wordOf])

theorem Decodes.of_longCount {k : Nat → Word → Reg → Instr} (hn : countOk n = true)
    (henc : encode (k n w b) = [wordOf op (countField n) b, w]) (hop : opTable op = some (.longCount k)) :
    Decodes (k n w b) :=
  decodes_of_build (f := .longCount k) henc (by rwa [opByte_wordOf])
    (by rw [Form.build, fieldOne_wordOf, fieldTwo_wordOf, count_of_ok n hn])

theorem Decodes.of_longZero {k : Word → Reg → Instr} (henc : encode (k w b) = [wordOf op 0#4 b, w])
    (hop : opTable op = some (.longZero k)) : Decodes (k w b) :=
  decodes_of_build (f := .longZero k) henc (by rwa [opByte_wordOf])
    (by rw [Form.build, fieldOne_wordOf, fieldTwo_wordOf, if_pos rfl])

/-- The immediate instructions have an operation code extension in place of RX (30_encoding.md R177). -/
theorem Decodes.of_immediate {k : Reg → Word → Instr} (henc : encode (k a w) = [wordOf 0x4A#8 a b, w])
    (hext : immediateTable b = some k) : Decodes (k a w) := by
  rw [Decodes, henc, decodeWords_pair (isLong_wordOf ..), decode_of_immediate w (opByte_wordOf ..), fieldOne_wordOf,
    fieldTwo_wordOf, hext]; rfl

theorem Decodes.of_base {op : BitVec 6} {br : Reg} {du : Byte} {k : Reg → Byte → Instr} (hbr : baseOk br = true)
    (henc : encode (k br du) = [wordOfBase op br du]) (hop : op.extractLsb' 4 2 = 0#2)
    (hk : baseTable (op.extractLsb' 0 4) = k) : Decodes (k br du) := by
  have htop : (opByte (wordOfBase op br du)).extractLsb' 6 2 = 0#2 := by
    rw [opByte_wordOfBase, BitVec.extractLsb'_append_eq_of_le (by omega)]; exact hop
  have hcode : (wordOfBase op br du).extractLsb' 10 4 = op.extractLsb' 0 4 := by
    rw [wordOfBase, BitVec.extractLsb'_append_eq_of_le (by omega), BitVec.extractLsb'_append_eq_of_le (by omega)]
  rw [Decodes, henc, decodeWords_single (isLong_of_base htop), decode_of_base _ htop, hcode, hk,
    baseField_wordOfBase op du hbr, lowByte_wordOfBase]

theorem Decodes.of_baseIndexed {ext : Nibble} {br rx : Reg} {k : Reg → Reg → Instr} (hbr : baseOk br = true)
    (henc : encode (k br rx) = [wordOfBaseIndexed ext br rx]) (hk : baseIndexedTable ext = k) :
    Decodes (k br rx) := by
  have htop : (opByte (wordOfBaseIndexed ext br rx)).extractLsb' 2 6 = 16#6 := by
    rw [opByte_wordOfBaseIndexed]; exact BitVec.extractLsb'_append_eq_left
  rw [Decodes, henc, decodeWords_single (isLong_wordOfBaseIndexed ..), decode_of_baseIndexed _ htop,
    fieldOne_wordOfBaseIndexed, hk, baseField_wordOfBaseIndexed ext rx hbr, fieldTwo_wordOfBaseIndexed]

end Formats

/-- Every well-formed instruction, by its format. -/
theorem decodes_of_wellFormed {i : Instr} (h : wellFormed i = true) : Decodes i := by
  cases i with
  | lb | dlb | stb | dstb | ab | sbb | mb | db | fab | fsb | fmb | fdb | orb | andb | cb | fcb =>
    exact .of_base h rfl rfl rfl
  | lbx | dlbx | stbx | dstx | abx | sbbx | mbx | dbx | fabx | fsbx | fmbx | fdbx | cbx | fcbx | andx | orbx =>
    exact .of_baseIndexed h rfl rfl
  | aim | sim | mim | msim | dim | dvim | andm | orim | xorm | cim | nim => exact .of_immediate rfl rfl
  | sbr | rbr | tbr | svbr | rvbr | tvbr | slr | sar | scr | dslr | dsar | dscr | lr | dlr | popm | mov | pshm
  | ar | abs | dabs | dar | far | efar | fabs | sr | neg | dneg | dsr | fsr | efsr | fneg | msr | mr | dmr | fmr
  | efmr | dvr | dr | ddr | fdr | efdr | orr | andr | xorr | nr | fix | flt | efix | eflt | xwr | cr | dcr | fcr
  | efcr => exact .of_regReg rfl rfl
  | lisp | lisn | aisp | sisp | misp | misn | disp | disn | cisp | cisn => exact .of_regCount h rfl rfl
  | sll | srl | sra | slc | dsll | dsrl | dsra | dslc => exact .of_countReg h rfl rfl
  | bex => exact .of_second rfl rfl
  | urs | xbr => exact .of_first rfl rfl
  | br | bez | blt | ble | bgt | bnz | bge => exact .of_relative rfl rfl
  | xio | vio | sb | sbi | rb | rbi | tb | tbi | tsb | jc | jci | js | soj | sjs | l | li | lim | dl | dli | lm
  | efl | lub | llb | lubi | llbi | st | stc | stci | sti | dst | srm | dsti | stm | efst | stub | stlb | subi
  | slbi | a | da | fa | efa | s | ds | fs | efs | ms | m | dm | fm | efm | dv | d | dd | fd | efd | or | and
  | xor | n | c | cbl | dc | fc | efc => exact .of_long rfl rfl
  | incm | decm => exact .of_longCount h rfl rfl
  | lsti | lst => exact .of_longZero rfl rfl
  | nop | bpt => rfl

end Sys2Proof

open Sys2Proof

/-- Settles O3: by the format of the instruction, each field of its words holds the operand that made it. -/
theorem encodedInstructionsDecode : Obligations.EncodedInstructionsDecode := by
  unfold Obligations.EncodedInstructionsDecode
  exact fun i => decodes_of_wellFormed
end

section
/-! SUPPORT. The words of an instruction that a decoding delivers are the words decoded: the tables of the decoder and
the encoder agree, and a form drops no bit of its words. -/

namespace Sys2Proof

/-! ### The tables of the decoder and the encoder agree -/

/-- The encoder writes the instructions of a form with the first byte `op` and with their operands in the fields where
the form reads them, and such an instruction is well-formed exactly if its count can be encoded. -/
def Form.EncodedBy (f : Form) (op : Byte) : Prop :=
  ∀ (a b : Nibble) (n : Nat) (d : Byte) (w : Word), match f with
    | .regReg k => encode (k a b) = [wordOf op a b] ∧ wellFormed (k a b) = true
    | .regCount k => encode (k a n) = [wordOf op a (countField n)] ∧ wellFormed (k a n) = countOk n
    | .countReg k => encode (k b n) = [wordOf op (countField n) b] ∧ wellFormed (k b n) = countOk n
    | .second k => encode (k b) = [wordOf op 0#4 b] ∧ wellFormed (k b) = true
    | .first k => encode (k a) = [wordOf op a 0#4] ∧ wellFormed (k a) = true
    | .relative k => encode (k d) = [wordOfByte op d] ∧ wellFormed (k d) = true
    | .long k => encode (k a w b) = [wordOf op a b, w] ∧ wellFormed (k a w b) = true
    | .longCount k => encode (k n w b) = [wordOf op (countField n) b, w] ∧ wellFormed (k n w b) = countOk n
    | .longZero k => encode (k w b) = [wordOf op 0#4 b, w] ∧ wellFormed (k w b) = true

/-- Each entry of the operation code table is one the encoder writes. -/
theorem encodedBy_of_opTable {op : Byte} {f : Form} (h : opTable op = some f) : f.EncodedBy op := by
  rw [← BitVec.setWidth_eq op, ← BitVec.ofNat_toNat]
  unfold opTable at h
  generalize op.toNat = n at h ⊢
  split at h <;> cases h
  all_goals exact fun _ _ _ _ _ => ⟨rfl, rfl⟩

/-- The encoder writes what the immediate table decodes. -/
theorem encode_of_immediateTable {ext : Nibble} {k : Reg → Word → Instr} (h : immediateTable ext = some k)
    (a : Nibble) (w : Word) : encode (k a w) = [wordOf 0x4A#8 a ext, w] ∧ wellFormed (k a w) = true := by
  rw [← BitVec.setWidth_eq ext, ← BitVec.ofNat_toNat]
  unfold immediateTable at h
  generalize ext.toNat = n at h ⊢
  split at h <;> cases h
  all_goals exact ⟨rfl, rfl⟩

theorem Nibble.exists_ofNat (x : Nibble) : ∃ n < 16, x = BitVec.ofNat 4 n :=
  ⟨x.toNat, x.isLt, BitVec.eq_of_toNat_eq (by simp)⟩

/-- So it does for the base relative table. -/
theorem encode_baseTable (op : Nibble) (br : Reg) (du : Byte) :
    encode (baseTable op br du) = [wordOfBase (0#2 ++ op) br du] ∧
      wellFormed (baseTable op br du) = baseOk br := by
  obtain ⟨n, hn, rfl⟩ := Nibble.exists_ofNat op
  interval_cases n <;> exact ⟨rfl, rfl⟩

theorem encode_baseIndexedTable (ext : Nibble) (br rx : Reg) :
    encode (baseIndexedTable ext br rx) = [wordOfBaseIndexed ext br rx] ∧
      wellFormed (baseIndexedTable ext br rx) = baseOk br := by
  obtain ⟨n, hn, rfl⟩ := Nibble.exists_ofNat ext
  interval_cases n <;> exact ⟨rfl, rfl⟩

/-! ### No bit of a word is dropped -/

/-- What a form makes of two words has those words (30_encoding.md R172, R211). -/
theorem words_of_build {f : Form} {w0 w1 : Word} {i : Instr} (htable : f.EncodedBy (opByte w0))
    (hbuild : f.build w0 w1 = some i) : wellFormed i = true ∧ encode i = f.words w0 w1 := by
  have fields := htable (fieldOne w0) (fieldTwo w0)
  have countInOne := fields ((fieldOne w0).toNat + 1) (lowByte w0) w1
  have countInTwo := fields ((fieldTwo w0).toNat + 1) (lowByte w0) w1
  simp only [countOk_field, countField_succ] at countInOne countInTwo
  have hword := wordOf_fields w0
  cases f with
  | regReg | long | countReg | longCount =>
    obtain rfl := Option.some.inj hbuild
    rw [hword] at countInOne
    exact countInOne.symm
  | regCount =>
    obtain rfl := Option.some.inj hbuild
    rw [hword] at countInTwo
    exact countInTwo.symm
  | second | longZero | first =>
    obtain ⟨hzero, hi⟩ := Option.ite_none_right_eq_some.1 hbuild
    obtain rfl := Option.some.inj hi
    rw [← hzero, hword] at countInOne
    exact countInOne.symm
  | relative =>
    obtain rfl := Option.some.inj hbuild
    rw [wordOfByte_fields] at countInOne
    exact countInOne.symm

/-- Words that decode are those of the instruction, by the branch of the decoder that their first byte selects. -/
theorem words_of_decode {w0 w1 : Word} {i : Instr} (h : decode w0 w1 = some i) :
    wellFormed i = true ∧ encode i = if isLong w0 then [w0, w1] else [w0] := by
  rcases opByte_cases (opByte w0) with hbase | hindexed | himm | hones | hplain
  · rw [decode_of_base w1 hbase] at h
    obtain rfl := Option.some.inj h
    obtain ⟨henc, hwf⟩ := encode_baseTable (w0.extractLsb' 10 4) (baseField w0) (lowByte w0)
    rw [← hbase, ← topTwo_eq, topSix_eq_topTwo_append, wordOfBase_fields] at henc
    exact ⟨hwf.trans (baseOk_baseField w0), by rw [henc, isLong_of_base hbase]; rfl⟩
  · rw [decode_of_baseIndexed w1 hindexed] at h
    obtain rfl := Option.some.inj h
    obtain ⟨henc, hwf⟩ := encode_baseIndexedTable (fieldOne w0) (baseField w0) (fieldTwo w0)
    rw [wordOfBaseIndexed_fields ((topSix_eq w0).trans hindexed)] at henc
    exact ⟨hwf.trans (baseOk_baseField w0), by rw [henc, isLong_of_baseIndexed hindexed]; rfl⟩
  · rw [decode_of_immediate w1 himm, Option.map_eq_some_iff] at h
    obtain ⟨k, hk, rfl⟩ := h
    obtain ⟨henc, hwf⟩ := encode_of_immediateTable hk (fieldOne w0) w1
    rw [← himm, wordOf_fields] at henc
    exact ⟨hwf, by rw [henc, isLong, himm]; rfl⟩
  · have hword := wordOfByte_fields w0
    have hlong : isLong w0 = false := by rw [isLong, hones]; rfl
    rw [decode_of_allOnes w1 hones] at h
    rw [hlong, ← hword, hones]
    split at h
    case isTrue hlow => obtain rfl := Option.some.inj h; rw [hlow]; exact ⟨rfl, rfl⟩
    case isFalse =>
      obtain ⟨hlow, hi⟩ := Option.ite_none_right_eq_some.1 h
      obtain rfl := Option.some.inj hi
      rw [hlow]; exact ⟨rfl, rfl⟩
  · rw [decode_of_plain w1 hplain, Option.bind_eq_some_iff] at h
    obtain ⟨f, hf, hbuild⟩ := h
    rw [isLong_of_opTable hf]
    exact words_of_build (encodedBy_of_opTable hf) hbuild

end Sys2Proof

open Sys2Proof

/-- Settles O4: each table of the decoder is one the encoder writes, and the fields make up the whole word. -/
theorem decodedWordsEncode : Obligations.DecodedWordsEncode := by
  unfold Obligations.DecodedWordsEncode
  exact fun w0 w1 i => words_of_decode
end

section
/-! SUPPORT. The first words that are not defined (30_encoding.md R210, R211), and the step that meets one
(60_exceptions.md R601, R602). -/

namespace Sys2Proof

/-! ### Fields printed as zero -/

/-- The form's field F1 is printed as zero (30_encoding.md R211). -/
def Form.zeroOne (f : Form) : Bool :=
  match f with
  | .second _ | .longZero _ => true
  | _ => false

/-- The form's field F2 is printed as zero (30_encoding.md R211). -/
def Form.zeroTwo (f : Form) : Bool :=
  match f with
  | .first _ => true
  | _ => false

theorem Form.build_eq_none_iff (f : Form) (w0 w1 : Word) :
    f.build w0 w1 = none ↔
      (f.zeroOne = true ∧ fieldOne w0 ≠ 0#4) ∨ (f.zeroTwo = true ∧ fieldTwo w0 ≠ 0#4) := by
  cases f <;> simp [Form.build, Form.zeroOne, Form.zeroTwo]

/-! ### The undefined first words -/

/-- The first bytes that stand for no instruction (30_encoding.md R210). -/
def unusedOps : List Nat :=
  [0x44, 0x45, 0x46, 0x47, 0x4B, 0x4C, 0x4D, 0x4E, 0x4F, 0x5B, 0x5D, 0x5F, 0x64, 0x69, 0x95, 0xAD, 0xAE, 0xAF,
   0xBD, 0xBE, 0xBF, 0xCC, 0xCD, 0xCE, 0xCF, 0xDC, 0xDD, 0xDE, 0xDF, 0xEE, 0xEF, 0xF5, 0xFC, 0xFD, 0xFE]

/-- Where a first word is not defined, by its first byte: everywhere, by its extension, where it is neither NOP nor
BPT, or where a field printed as zero is not (30_encoding.md R210, R211). -/
def UndefinedWord (w0 : Word) : Prop :=
  (opByte w0).toNat ∈ unusedOps ∨
  (opByte w0 = 0x4A#8 ∧ (fieldTwo w0 = 0#4 ∨ 12#4 ≤ fieldTwo w0)) ∨
  (opByte w0 = 0xFF#8 ∧ lowByte w0 ≠ 0x00#8 ∧ lowByte w0 ≠ 0xFF#8) ∨
  ((opByte w0).toNat ∈ [0x77, 0x7C, 0x7D] ∧ fieldOne w0 ≠ 0#4) ∨
  ((opByte w0).toNat ∈ [0x7F, 0xEC] ∧ fieldTwo w0 ≠ 0#4)

/-- The first bytes of R210 and R211 are none of the base relative ones. -/
theorem not_undefinedWord_of_base {w0 : Word}
    (h : (opByte w0).extractLsb' 6 2 = 0#2 ∨ (opByte w0).extractLsb' 2 6 = 16#6) : ¬ UndefinedWord w0 := by
  have key : ∀ op : Byte, op.extractLsb' 6 2 = 0#2 ∨ op.extractLsb' 2 6 = 16#6 →
      op.toNat ∉ unusedOps ∧ op ≠ 0x4A#8 ∧ op ≠ 0xFF#8 ∧ op.toNat ∉ [0x77, 0x7C, 0x7D] ∧ op.toNat ∉ [0x7F, 0xEC] := by
    decide
  obtain ⟨hunused, himm, hones, hone, htwo⟩ := key _ h
  simp only [UndefinedWord, hunused, himm, hones, hone, htwo, false_and, or_self, not_false_eq_true]

theorem immediateTable_eq_none_iff (ext : Nibble) : immediateTable ext = none ↔ ext = 0#4 ∨ 12#4 ≤ ext := by
  have key : ∀ ext : Nibble, (immediateTable ext).isNone = true ↔ ext = 0#4 ∨ 12#4 ≤ ext := by decide
  rw [← Option.isNone_iff_eq_none, key]

/-- The operation code table has an entry for every other first byte. -/
theorem opTable_eq_none_iff {op : Byte} (h : plainOp op = true) : opTable op = none ↔ op.toNat ∈ unusedOps := by
  have key : ∀ op : Byte, plainOp op = true → ((opTable op).isNone = true ↔ op.toNat ∈ unusedOps) := by decide
  rw [← Option.isNone_iff_eq_none, key op h]

theorem zeroOne_of_opTable {op : Byte} {f : Form} (h : opTable op = some f) :
    f.zeroOne = true ↔ op.toNat ∈ [0x77, 0x7C, 0x7D] := by
  have key : ∀ op : Byte, (opTable op).any Form.zeroOne = true ↔ op.toNat ∈ [0x77, 0x7C, 0x7D] := by decide
  rw [← key, h, Option.any_some]

theorem zeroTwo_of_opTable {op : Byte} {f : Form} (h : opTable op = some f) :
    f.zeroTwo = true ↔ op.toNat ∈ [0x7F, 0xEC] := by
  have key : ∀ op : Byte, (opTable op).any Form.zeroTwo = true ↔ op.toNat ∈ [0x7F, 0xEC] := by decide
  rw [← key, h, Option.any_some]

/-- The undefined first words are those that the decoder refuses, whatever word follows. -/
theorem decode_eq_none_iff (w0 w1 : Word) : decode w0 w1 = none ↔ UndefinedWord w0 := by
  rcases opByte_cases (opByte w0) with hbase | hindexed | himm | hones | hplain
  · simp [decode_of_base w1 hbase, not_undefinedWord_of_base (.inl hbase)]
  · simp [decode_of_baseIndexed w1 hindexed, not_undefinedWord_of_base (.inr hindexed)]
  · rw [decode_of_immediate w1 himm, Option.map_eq_none_iff, immediateTable_eq_none_iff]
    simp [UndefinedWord, himm, unusedOps]
  · rw [decode_of_allOnes w1 hones]
    simp only [UndefinedWord, hones]
    split_ifs <;> simp [*, unusedOps]
  · have himm : opByte w0 ≠ 0x4A#8 := fun h => absurd (h ▸ hplain) (by decide)
    have hones : opByte w0 ≠ 0xFF#8 := fun h => absurd (h ▸ hplain) (by decide)
    have hunused := opTable_eq_none_iff hplain
    rw [decode_of_plain w1 hplain]
    simp only [UndefinedWord, himm, hones, false_and, false_or, ← hunused]
    cases htable : opTable (opByte w0) with
    | none => simp
    | some f =>
      rw [Option.bind_some, Form.build_eq_none_iff, zeroOne_of_opTable htable, zeroTwo_of_opTable htable]
      simp

/-- Whether words decode depends on the first only (30_encoding.md R210). -/
theorem decode_eq_none_congr (w0 w1 w1' : Word) : decode w0 w1 = none ↔ decode w0 w1' = none := by
  rw [decode_eq_none_iff, decode_eq_none_iff]

theorem isDefined_of_decode {w0 w1 : Word} {i : Instr} (h : decode w0 w1 = some i) : isDefined w0 = true := by
  rw [isDefined, Option.isSome_iff_ne_none, Ne, decode_eq_none_congr w0 0#16 w1, h]
  exact Option.some_ne_none i

end Sys2Proof
end

section
/-! SUPPORT. What a fetch answers, case by case (30_encoding.md R171, R172; 60_exceptions.md R601, R602), and how a step
ends that it aborts (R626, R627). -/

namespace Sys2Proof.Machine

open Sys2Proof.Claims

/-! ### The words of a fetch -/

/-- A fetch of a word is made after the DMA accesses before it, whatever it delivers (20_memory.md R151). -/
theorem State.awaitBus_of_fetchWord {s t : State} {la : Word} {x : Except Abort Word} (h : s.fetchWord la = (x, t)) :
    t = s.awaitBus := (congrArg Prod.snd h).symm

theorem State.fetchWord_of_refused {s : State} {la : Word} {k : CpuFault}
    (h : s.awaitBus.readFault ⟨la, .instruction, s.as⟩ s.ps = some k) :
    s.fetchWord la = (.error ⟨k, some ⟨la, .instruction, s.as⟩⟩, s.awaitBus) := by
  rw [State.fetchWord, State.reference, State.readWord_of_refused h]

section Fetch

variable {s t u : State} {w0 w1 : Word} {a : Abort} {i : Instr}

theorem State.fetch_of_firstFault (h : s.fetchWord s.ic = (.error a, t)) :
    s.fetch = .aborted ((t.advance 1).raiseFault a) := by
  rw [State.fetch, h]

theorem State.fetch_of_secondFault (h0 : s.fetchWord s.ic = (.ok w0, t)) (hdef : isDefined w0 = true)
    (hlong : isLong w0 = true) (h1 : t.fetchWord (s.ic + 1) = (.error a, u)) :
    s.fetch = .aborted ((u.advance 2).raiseFault a) := by
  simp only [State.fetch, h0, h1, hdef, hlong, Bool.and_self, if_true]

/-- The second word of an undefined instruction is not fetched (60_exceptions.md R602). -/
theorem State.fetch_of_undefined (h0 : s.fetchWord s.ic = (.ok w0, t)) (hdec : decode w0 0#16 = none) :
    s.fetch = .aborted ((t.advance 1).raiseFault illegalInstruction) := by
  have hdef : isDefined w0 = false := by rw [isDefined, hdec]; rfl
  simp only [State.fetch, h0, hdef, Bool.false_and, State.decoded, hdec]
  rfl

theorem State.fetch_of_single (h0 : s.fetchWord s.ic = (.ok w0, t)) (hlong : isLong w0 = false)
    (hdec : decode w0 0#16 = some i) : s.fetch = .instruction i t := by
  simp only [State.fetch, h0, hlong, Bool.and_false, State.decoded, hdec]
  rfl

theorem State.fetch_of_pair (h0 : s.fetchWord s.ic = (.ok w0, t)) (hlong : isLong w0 = true)
    (h1 : t.fetchWord (s.ic + 1) = (.ok w1, u)) (hdec : decode w0 w1 = some i) : s.fetch = .instruction i u := by
  simp only [State.fetch, h0, h1, isDefined_of_decode hdec, hlong, Bool.and_self, if_true, State.decoded, hdec]

/-! ### The end of a step that its fetch aborts -/

/-- What a fault leaves, recorded `len` words past the instruction counter. -/
theorem State.raiseFault_advance (s : State) (len : Word) (k : CpuFault) (r : Option MemRef) :
    (s.advance len).raiseFault ⟨k, r⟩ = aborted s (s.ic + len) k.bit r := rfl

/-- The end of a step that has touched neither the enables nor the hold: a pending enable takes effect, and every held
bit is released (60_exceptions.md R626, R627). -/
theorem State.endStep_of_untouched (hinten : t.inten = s.inten) (hendly : t.endly = s.endly)
    (hpihold : t.pihold = s.pihold) :
    s.endStep t = { t with inten := s.inten || s.endly, endly := false, pihold := 0#16 } := by
  rw [State.endStep, hinten, hendly, hpihold, Bool.and_self, Bool.and_not_self, BitVec.and_not_self]
  rfl

theorem instructionStep_of_aborted {ic : Word} {k : Nat} {r : Option MemRef}
    (h : s.fetch = .aborted (aborted t ic k r)) (hinten : t.inten = s.inten) (hendly : t.endly = s.endly)
    (hpihold : t.pihold = s.pihold) :
    instructionStep s =
      .next { aborted t ic k r with inten := s.inten || s.endly, endly := false, pihold := 0#16 } := by
  rw [instructionStep, h]
  exact congrArg _ (State.endStep_of_untouched (t := aborted t ic k r) hinten hendly hpihold)

theorem instructionStep_of_fetched (h : s.fetch = .instruction i u) (hexec : exec i u = .next t) :
    instructionStep s = .next (s.endStep t) := by
  simp only [instructionStep, h, hexec]

end Fetch

end Sys2Proof.Machine

open Sys2Proof Sys2Proof.Machine Sys2Proof.Claims

/-- Settles O5: the tables have an entry for every other first word, and a fetch stops at one that has none. -/
theorem undefinedInstructions : Obligations.UndefinedInstructions := by
  unfold Obligations.UndefinedInstructions
  refine ⟨decode_eq_none_iff, ?_⟩
  intro s w0 e1 e running boundary hfetch hdec
  obtain rfl := State.awaitBus_of_fetchWord hfetch
  have hfault := State.fetch_of_undefined hfetch hdec
  rw [illegalInstruction, State.raiseFault_advance, State.ic_awaitBus] at hfault
  rw [step_of_running running boundary]
  exact instructionStep_of_aborted hfault (State.inten_awaitBus e) (State.endly_awaitBus e) (State.pihold_awaitBus e)

/-- Settles O1: the fetch delivers the instruction, which is well-formed because its words decode to it. -/
theorem stepRunsDecodedInstruction : Obligations.StepRunsDecodedInstruction := by
  unfold Obligations.StepRunsDecodedInstruction
  intro s w0 w1 i e1 e2 t e running boundary hfirst hsecond hdec hexec
  obtain ⟨hwf, henc⟩ := words_of_decode hdec
  refine ⟨hwf, ?_⟩
  have hfetch : e.fetch = .instruction i e2 := by
    cases hlong : isLong w0 with
    | true =>
      rw [hlong, if_pos rfl] at hsecond
      exact State.fetch_of_pair hfirst hlong hsecond hdec
    | false =>
      rw [hlong, if_neg (by decide)] at hsecond henc
      have hread := decodes_of_wellFormed hwf
      rw [Decodes, henc, decodeWords_single hlong] at hread
      exact hsecond ▸ State.fetch_of_single hfirst hlong hread
  rw [step_of_running running boundary]
  exact instructionStep_of_fetched hfetch hexec

/-- Settles O6: the first fetch that is refused aborts, on the state after the accesses before it. -/
theorem fetchFaultAborts : Obligations.FetchFaultAborts := by
  unfold Obligations.FetchFaultAborts
  intro s k running boundary e word leaves
  rw [step_of_running running boundary]
  refine ⟨fun hfault => ?_, fun w0 e1 hfirst hdef hlong hfault => ?_⟩
  · have hfetch := State.fetch_of_firstFault (State.fetchWord_of_refused hfault)
    rw [State.raiseFault_advance, State.ic_awaitBus] at hfetch
    exact instructionStep_of_aborted hfetch (State.inten_awaitBus e) (State.endly_awaitBus e) (State.pihold_awaitBus e)
  · obtain rfl := State.awaitBus_of_fetchWord hfirst
    have hsecond := State.fetchWord_of_refused (s := e.awaitBus) (la := e.ic + 1) (k := k)
      (by rw [State.as_awaitBus, State.ps_awaitBus]; exact hfault)
    have hfetch := State.fetch_of_secondFault hfirst hdef hlong hsecond
    rw [State.raiseFault_advance, State.ic_awaitBus, State.ic_awaitBus, State.as_awaitBus] at hfetch
    exact instructionStep_of_aborted hfetch
      ((State.inten_awaitBus e.awaitBus).trans (State.inten_awaitBus e))
      ((State.endly_awaitBus e.awaitBus).trans (State.endly_awaitBus e))
      ((State.pihold_awaitBus e.awaitBus).trans (State.pihold_awaitBus e))

/-- Settles O2: each word is looked up in the tables. -/
theorem sampleWordsDecode : Obligations.SampleWordsDecode := by
  unfold Obligations.SampleWordsDecode
  decide
end

section
/-! SUPPORT. The operand reads of an instruction in order: what they deliver when all are allowed, and what the first
one that is refused leaves (20_memory.md R140, 30_encoding.md R193, 60_exceptions.md R601). -/

namespace Sys2Proof.Claims

open Sys2Proof.Machine

/-! ### The addresses read -/

theorem addresses_succ (la : Word) (n : Nat) : addresses la (n + 1) = la :: addresses (la + 1) n := by
  rw [addresses, List.range_succ_eq_map, List.map_cons, List.map_map, BitVec.add_zero]
  exact congrArg _ (List.map_congr_left fun k _ => Word.add_succ la k)

theorem addresses_one (la : Word) : addresses la 1 = [la] := addresses_succ la 0

theorem addresses_two (la : Word) : addresses la 2 = [la] ++ [la + 1] := by
  rw [addresses_succ, addresses_one]; rfl

theorem addresses_three (la : Word) : addresses la 3 = [la] ++ ([la + 1] ++ [la + 2]) := by
  have hlast : la + 2 = la + 1 + 1 := by rw [BitVec.add_assoc]; rfl
  rw [addresses_succ, addresses_two, hlast]; rfl

/-! ### The first refusal -/

/-- The abort by the first operand read that is refused, none if all are allowed (60_exceptions.md R601). -/
def firstRefusal (s : State) (las : List Word) : Option Abort :=
  las.findSome? fun la => (s.readFault (s.operandRef la) s.ps).map fun k => ⟨k, some (s.operandRef la)⟩

theorem firstRefusal_append (s : State) (las las' : List Word) :
    firstRefusal s (las ++ las') = (firstRefusal s las).or (firstRefusal s las') := List.findSome?_append

theorem firstRefusal_of_refused {s : State} {before : List Word} {la : Word} {k : CpuFault} (after : List Word)
    (hbefore : ∀ b ∈ before, s.readFault (s.operandRef b) s.ps = none)
    (hla : s.readFault (s.operandRef la) s.ps = some k) :
    firstRefusal s (before ++ la :: after) = some ⟨k, some (s.operandRef la)⟩ := by
  have hnone : firstRefusal s before = none :=
    List.findSome?_eq_none_iff.2 fun b hb => by rw [hbefore b hb]; rfl
  rw [firstRefusal_append, hnone, Option.none_or, firstRefusal, List.findSome?_cons, hla]; rfl

/-! ### Readings by their addresses -/

/-- A reading references the logical addresses `las` in order: it delivers `v` if all are allowed, the first that is
refused aborts it, and it changes nothing (20_memory.md R140). -/
def ReadsAt {α : Type} (s : State) (las : List Word) (v : α) (x : Reading α) : Prop :=
  x = ((firstRefusal s las).elim (.ok v) .error, s)

section Readings

variable {s : State}

theorem ReadsAt.pure {α : Type} (v : α) : ReadsAt s [] v (.ok v, s) := rfl

/-- Readings one after the other reference the addresses of the first, then those of the second. -/
theorem ReadsAt.andThen {α β : Type} {las las' : List Word} {v : α} {w : β} {x : Reading α}
    {next : α → State → Reading β} (hx : ReadsAt s las v x) (hnext : ReadsAt s las' w (next v s)) :
    ReadsAt s (las ++ las') w (x.andThen next) := by
  rw [ReadsAt] at hx hnext ⊢
  rw [hx, firstRefusal_append]
  cases firstRefusal s las with
  | none => exact hnext
  | some a => rfl

/-- A reading followed by one step that makes no reference. -/
theorem ReadsAt.map {α β : Type} {las : List Word} {v : α} {w : β} {x : Reading α} {next : α → State → Reading β}
    (hx : ReadsAt s las v x) (hnext : next v s = (.ok w, s)) : ReadsAt s las w (x.andThen next) := by
  rw [← List.append_nil las]
  exact hx.andThen hnext

variable (quiet : s.bus = [])
include quiet

theorem readsAt_read (la : Word) : ReadsAt s [la] (s.wordAt la) (s.read la) := by
  cases hla : s.readFault (s.operandRef la) s.ps with
  | none =>
    have hnone : firstRefusal s [la] = none := by rw [firstRefusal, List.findSome?_cons, hla]; rfl
    rw [ReadsAt, hnone, State.read_of_allowed quiet hla]; rfl
  | some k =>
    have hsome := firstRefusal_of_refused (before := []) [] (by simp) hla
    rw [List.nil_append] at hsome
    rw [ReadsAt, hsome, State.read_of_refused quiet hla]; rfl

theorem readsAt_readDouble (la : Word) : ReadsAt s (addresses la 2) (s.doubleAt la) (s.readDouble la) := by
  rw [addresses_two]
  exact (readsAt_read quiet la).andThen ((readsAt_read quiet (la + 1)).map rfl)

theorem readsAt_readTriple (la : Word) : ReadsAt s (addresses la 3) (s.tripleAt la) (s.readTriple la) := by
  rw [addresses_three, ← List.append_assoc, ← addresses_two]
  exact (readsAt_readDouble quiet la).andThen ((readsAt_read quiet (la + 2)).map rfl)

theorem readsAt_readContext (la : Word) :
    ReadsAt s (addresses la 3) ⟨s.wordAt la, s.wordAt (la + 1), s.wordAt (la + 2)⟩ (s.readContext la) := by
  rw [addresses_three]
  exact (readsAt_read quiet la).andThen ((readsAt_read quiet (la + 1)).andThen ((readsAt_read quiet (la + 2)).map rfl))

theorem readsAt_readMany (la : Word) (n : Nat) :
    ReadsAt s (addresses la n) ((addresses la n).map s.wordAt) (s.readMany la n) := by
  induction n generalizing la with
  | zero => exact .pure []
  | succ n ih =>
    rw [addresses_succ]
    exact (readsAt_read quiet la).andThen ((ih (la + 1)).map rfl)

theorem readsAt_cell (la : Word) : ReadsAt s [la] (la, s.wordAt la) (s.cell la) := (readsAt_read quiet la).map rfl

end Readings

/-! ### Operands by addressing mode -/

/-- How a memory mode gets its operand, `read` being the read at a derived address: in the indirect modes after the read
of the pointer (30_encoding.md R182 to R190). The other modes reference no memory. -/
def Operand.reading {α : Type} (q : Operand) (read : State → Word → Reading α) (s : State) : Option (Reading α) :=
  match q with
  | .base br du => some (read s (s.based br du))
  | .baseIndexed br rx => some (read s (s.baseIndexed br rx))
  | .direct addr rx => some (read s (s.direct addr rx))
  | .indirect addr rx => some ((s.indirect addr rx).andThen fun da s1 => read s1 da)
  | .register _ | .shortPositive _ | .shortNegative _ | .immediate _ | .immediateIndexed _ _ => none

/-- The references of an operand are its pointer, if it has one, and its words. -/
theorem readsAt_of_reading {α : Type} {s : State} {n : Nat} {v : Word → α} {read : State → Word → Reading α}
    {q : Operand} {x : Reading α} (quiet : s.bus = [])
    (hread : ∀ la, ReadsAt s (addresses la n) (v la) (read s la)) (hx : q.reading read s = some x) :
    ∃ w, ReadsAt s (q.reads s n) w x := by
  cases q with
  | base | baseIndexed | direct =>
    obtain rfl := Option.some.inj hx
    exact ⟨_, hread _⟩
  | indirect addr rx =>
    obtain rfl := Option.some.inj hx
    exact ⟨_, (readsAt_read quiet (s.direct addr rx)).andThen (hread _)⟩
  | register | shortPositive | shortNegative | immediate | immediateIndexed => nomatch hx

theorem Operand.reads_advance (q : Operand) (s : State) (len : Word) (n : Nat) :
    q.reads (s.advance len) n = q.reads s n := by
  cases q <;> rfl

/-! ### An instruction that is aborted by a read -/

/-- An instruction of `len` words that reads at the logical addresses `las` in order is aborted by the first read that
is refused: the fault is recorded, IC is past the instruction, and nothing else changes (60_exceptions.md R601). -/
def AbortsAt (s : State) (i : Instr) (len : Word) (las : List Word) : Prop :=
  ∀ a, firstRefusal s las = some a → exec i s = .next (aborted s (s.ic + len) a.fault.bit a.ref)

section Aborts

variable {s : State} {i : Instr} {len : Word} {α : Type} {x : Reading α} {k : α → State → State}

/-- An instruction without a memory operand has no read that could be refused. -/
theorem AbortsAt.of_nil : AbortsAt s i len [] := fun a ha => absurd ha (by simp [firstRefusal])

theorem AbortsAt.of_readsAt {las : List Word} {v : α} (hexec : exec i s = onRead x k)
    (hreads : ReadsAt (s.advance len) las v x) : AbortsAt s i len las := by
  intro a ha
  have hrefused : x = (.error a, s.advance len) := by
    have hsame : firstRefusal (s.advance len) las = some a := ha
    rw [hreads, hsame]; rfl
  rw [hexec, hrefused]; rfl

variable (quiet : s.bus = []) {q : Operand}
include quiet

theorem AbortsAt.of_reading {n : Nat} {v : Word → α} {read : State → Word → Reading α}
    (hread : ∀ la, ReadsAt (s.advance len) (addresses la n) (v la) (read (s.advance len) la))
    (hexec : exec i s = onRead x k) (hoperand : q.reading read (s.advance len) = some x) :
    AbortsAt s i len (q.reads s n) := by
  obtain ⟨w, hreads⟩ := readsAt_of_reading (s := s.advance len) quiet hread hoperand
  rw [Operand.reads_advance] at hreads
  exact .of_readsAt hexec hreads

theorem AbortsAt.of_word {x : Reading Word} {k : Word → State → State}
    (hexec : exec i s = onRead x k) (hoperand : q.reading State.read (s.advance len) = some x) :
    AbortsAt s i len (q.reads s 1) :=
  .of_reading quiet (fun la => addresses_one la ▸ readsAt_read (s := s.advance len) quiet la) hexec hoperand

theorem AbortsAt.of_cell {x : Reading (Word × Word)} {k : Word × Word → State → State}
    (hexec : exec i s = onRead x k) (hoperand : q.reading State.cell (s.advance len) = some x) :
    AbortsAt s i len (q.reads s 1) :=
  .of_reading quiet (fun la => addresses_one la ▸ readsAt_cell (s := s.advance len) quiet la) hexec hoperand

theorem AbortsAt.of_double {x : Reading Double} {k : Double → State → State}
    (hexec : exec i s = onRead x k) (hoperand : q.reading State.readDouble (s.advance len) = some x) :
    AbortsAt s i len (q.reads s 2) :=
  .of_reading quiet (readsAt_readDouble (s := s.advance len) quiet) hexec hoperand

theorem AbortsAt.of_triple {x : Reading Triple} {k : Triple → State → State}
    (hexec : exec i s = onRead x k) (hoperand : q.reading State.readTriple (s.advance len) = some x) :
    AbortsAt s i len (q.reads s 3) :=
  .of_reading quiet (readsAt_readTriple (s := s.advance len) quiet) hexec hoperand

theorem AbortsAt.of_context {x : Reading Context} {k : Context → State → State}
    (hexec : exec i s = onRead x k) (hoperand : q.reading State.readContext (s.advance len) = some x) :
    AbortsAt s i len (q.reads s 3) :=
  .of_reading quiet (readsAt_readContext (s := s.advance len) quiet) hexec hoperand

theorem AbortsAt.of_single {la : Word} {k : Word → State → State}
    (hexec : exec i s = onRead ((s.advance len).read la) k) : AbortsAt s i len [la] :=
  .of_readsAt hexec (readsAt_read (s := s.advance len) quiet la)

theorem AbortsAt.of_many {la : Word} {n : Nat} {k : List Word → State → State}
    (hexec : exec i s = onRead ((s.advance len).readMany la n) k) : AbortsAt s i len (addresses la n) :=
  .of_readsAt hexec (readsAt_readMany (s := s.advance len) quiet la n)

end Aborts

theorem length_regsFromTo (ra rb : Reg) : (regsFromTo ra rb).length = (rb - ra).toNat + 1 := by
  rw [regsFromTo, List.length_map, List.length_range]

/-- The reads of every instruction are those listed for it, in that order. -/
theorem ReadsInOrder.abortsAt {s : State} {i : Instr} {len : Word} {las : List Word} (h : ReadsInOrder s i len las)
    (quiet : s.bus = []) : AbortsAt s i len las := by
  cases h with
  | load form =>
    cases form with
    | lr | lisp | lisn | lim => exact .of_nil
    | lb | lbx | l | li => exact .of_word quiet rfl rfl
  | loadByte form =>
    cases form with
    | lub | lubi | llb | llbi => exact .of_word quiet rfl rfl
  | loadPair form =>
    cases form with
    | dlr => exact .of_nil
    | dlb | dlbx | dl | dli => exact .of_double quiet rfl rfl
  | efl ra addr rx => exact AbortsAt.of_triple (q := .direct addr rx) quiet rfl rfl
  | lm => exact .of_many quiet rfl
  | popm ra rb => exact length_regsFromTo ra rb ▸ .of_many quiet rfl
  | store form =>
    cases form with
    | stb | stbx | st | dstb | dstx | dst | efst => exact .of_nil
    | sti | dsti => exact .of_single quiet rfl
  | storeConstant form =>
    cases form with
    | stc => exact .of_nil
    | stci => exact .of_single quiet rfl
  | modify form =>
    cases form with
    | sb | sbi | rb | rbi | srm | stub | subi | stlb | slbi => exact .of_cell quiet rfl rfl
  | testBit form =>
    cases form with
    | tbr | tvbr => exact .of_nil
    | tb | tbi => exact .of_word quiet rfl rfl
  | tsb n addr rx | incm n addr rx | decm n addr rx =>
    rw [← addresses_one]
    exact AbortsAt.of_cell (q := .direct addr rx) quiet rfl rfl
  | mov ra rb count => exact .of_single quiet (if_neg count)
  | add form =>
    cases form with
    | ar | aisp | aim => exact .of_nil
    | ab | abx | a => exact .of_word quiet rfl rfl
  | subtract form =>
    cases form with
    | sr | sisp | sim => exact .of_nil
    | sbb | sbbx | s => exact .of_word quiet rfl rfl
  | multiplyWord form =>
    cases form with
    | msr | misp | misn | msim => exact .of_nil
    | ms => exact .of_word quiet rfl rfl
  | multiply form =>
    cases form with
    | mr | mim => exact .of_nil
    | mb | mbx | m => exact .of_word quiet rfl rfl
  | divideWord form =>
    cases form with
    | dvr | disp | disn | dvim => exact .of_nil
    | dv => exact .of_word quiet rfl rfl
  | divide form =>
    cases form with
    | dr | dim => exact .of_nil
    | db | dbx | d => exact .of_word quiet rfl rfl
  | logical form =>
    cases form with
    | orr | orim | andr | andm | xorr | xorm | nr | nim => exact .of_nil
    | orb | orbx | or | andb | andx | and | xor | n => exact .of_word quiet rfl rfl
  | compare form =>
    cases form with
    | cr | cisp | cisn | cim => exact .of_nil
    | cb | cbx | c => exact .of_word quiet rfl rfl
  | cbl ra addr rx => exact AbortsAt.of_double (q := .direct addr rx) quiet rfl rfl
  | addPair form | subtractPair form | multiplyPair form | dividePair form | comparePair form =>
    cases form with
    | register => exact .of_nil
    | direct => exact .of_double quiet rfl rfl
  | float form =>
    cases form with
    | add form | subtract form | multiply form | divide form =>
      cases form with
      | register => exact .of_nil
      | base | baseIndexed | direct => exact .of_double quiet rfl rfl
  | extended form =>
    cases form with
    | add form | subtract form | multiply form | divide form =>
      cases form with
      | register => exact .of_nil
      | direct => exact .of_triple quiet rfl rfl
  | compareFloat form =>
    cases form with
    | register => exact .of_nil
    | base | baseIndexed | direct => exact .of_double quiet rfl rfl
  | compareExtended form =>
    cases form with
    | register => exact .of_nil
    | direct => exact .of_triple quiet rfl rfl
  | jci | urs => exact .of_single quiet rfl
  | lst addr rx supervisor | lsti addr rx supervisor => exact .of_context quiet (if_pos supervisor) rfl
  | vio ra addr rx supervisor => exact AbortsAt.of_double (q := .direct addr rx) quiet (if_pos supervisor) rfl

end Sys2Proof.Claims

open Sys2Proof Sys2Proof.Machine Sys2Proof.Claims

/-- Settles O22: the references before the one that is refused deliver their words and change nothing, and that one
aborts the instruction. -/
theorem unreadableOperandAborts : Obligations.UnreadableOperandAborts := by
  unfold Obligations.UnreadableOperandAborts
  intro i s len before after la k reads quiet allowed refused
  exact reads.abortsAt quiet _ (firstRefusal_of_refused after allowed refused)
end

section
/-! SUPPORT. What every input/output command leaves unchanged, whatever its code (40_input_output.md R227 to R273). -/

namespace Sys2Proof.Claims

open Sys2Proof.Machine

/-! ### Output commands -/

/-- An output command leaves the configuration, the general registers, IC and the events to come. -/
theorem State.runOutput_eq (s : State) (c : OutCommand) (v : Word) :
    s.runOutput c v = { s.runOutput c v with cfg := s.cfg, regs := s.regs, ic := s.ic, env := s.env } := by
  cases c
  case wsw => unfold State.runOutput State.loadSw; dsimp only; split_ifs <;> rfl
  case co => unfold State.runOutput; dsimp only; split_ifs <;> rfl
  all_goals rfl

/-- An output command does not depend on IC. -/
theorem State.runOutput_advance (s : State) (len : Word) (c : OutCommand) (v : Word) :
    (s.advance len).runOutput c v = (s.runOutput c v).advance len := by
  cases c
  case wsw =>
    show (if s.cfg.groups ≤ _ then _ else _) = (s.loadSw v).advance len
    unfold State.loadSw; split_ifs <;> rfl
  case co =>
    unfold State.runOutput
    rw [State.advance_console]
    split_ifs <;> rfl
  all_goals rfl

/-- An output command records no illegal command. -/
theorem State.illegalBit_runOutput {s : State} {c : OutCommand} {v : Word}
    (h : (s.runOutput c v).ft.getMsbD 5 = true) : s.ft.getMsbD 5 = true := by
  cases c
  case wsw =>
    have hft := (loadsStatus s v).fault
    rw [show (s.runOutput .wsw v).ft = _ from hft] at h
    split_ifs at h
    · exact h
    · simpa [bitMask] using h
  case co => revert h; unfold State.runOutput; dsimp only; split_ifs <;> exact id
  case clir => simp [State.runOutput] at h
  case rpi =>
    simp only [State.runOutput, State.resetPending] at h
    split_ifs at h
    · simp at h
    · exact h
  all_goals exact h

/-! ### Input commands -/

/-- An input command changes the fault register, the pending and held interrupts, the interfaces, the console and the
free values only. -/
theorem State.runInput_eq (s : State) (c : InCommand) :
    (s.runInput c).2 =
      { s with ft := (s.runInput c).2.ft, pir := (s.runInput c).2.pir, pihold := (s.runInput c).2.pihold,
               io := (s.runInput c).2.io, console := (s.runInput c).2.console,
               freeCount := (s.runInput c).2.freeCount } := by
  cases c
  case pi | spareIn => unfold State.runInput State.takePortWord; dsimp only; split <;> rfl
  case ci => unfold State.runInput State.takeConsoleWord; dsimp only; split <;> rfl
  all_goals rfl

theorem State.takePortWord_advance (s : State) (len code : Word) :
    (s.advance len).takePortWord code = ((s.takePortWord code).1, (s.takePortWord code).2.advance len) := by
  unfold State.takePortWord
  rw [State.advance_io]
  cases s.io.portIn.find? fun p => p.1 == code <;> rfl

theorem State.takeConsoleWord_advance (s : State) (len : Word) :
    (s.advance len).takeConsoleWord = (s.takeConsoleWord.1, s.takeConsoleWord.2.advance len) := by
  unfold State.takeConsoleWord
  rw [State.advance_console]
  split <;> rfl

/-- An input command does not depend on IC. -/
theorem State.runInput_advance (s : State) (len : Word) (c : InCommand) :
    (s.advance len).runInput c = ((s.runInput c).1, (s.runInput c).2.advance len) := by
  cases c
  case pi code | spareIn code => exact State.takePortWord_advance s len code
  case ci => exact State.takeConsoleWord_advance s len
  all_goals rfl

/-- An input command records no illegal command. -/
theorem State.illegalBit_runInput {s : State} {c : InCommand}
    (h : (s.runInput c).2.ft.getMsbD 5 = true) : s.ft.getMsbD 5 = true := by
  cases c
  case pi | spareIn => unfold State.runInput State.takePortWord at h; dsimp only at h; split at h <;> exact h
  case ci => unfold State.runInput State.takeConsoleWord at h; dsimp only at h; split at h <;> exact h
  case rcfr => simp [State.runInput] at h
  all_goals exact h

@[simp] theorem State.regs_runInput (s : State) (c : InCommand) : (s.runInput c).2.regs = s.regs := by
  rw [State.runInput_eq]

/-- The faults of writes do not depend on what an input command changes. -/
theorem State.writeFault_runInput (s : State) (c : InCommand) (r : MemRef) (key : Nibble) :
    (s.runInput c).2.writeFault r key = s.writeFault r key := by
  rw [State.runInput_eq]; rfl

end Sys2Proof.Claims
end

section
/-! SUPPORT. The codes of the input/output commands (40_input_output.md R221 to R226): the channel groups, which are
the same for output and input, the codes that are decoded one by one, and that a machine implements exactly the codes
that it decodes. -/

namespace Sys2Proof.Claims

open Sys2Proof.Machine

/-! ### Channel groups -/

/-- The command of a whole channel group, the direction bit apart: that of the ports, of the spare codes, of the protect
RAM, of the instruction and of the operand page registers (40_input_output.md R225). -/
def channelGroup {α : Type} (c : Config) (cmd : Word) (port spare ram instructionPage operandPage : α) : Option α :=
  if cmd.toNat % 32768 ≤ 0x03FF then onlyIf (answersCode c cmd) port
  else if isSpare cmd then onlyIf (answersCode c cmd) spare
  else if cmd.toNat % 32768 / 128 = 0xA0 then onlyIf c.hasMprot ram
  else if cmd.toNat % 32768 / 256 = 0x51 then onlyIf (hasPageGroup c (cmd.extractLsb' 4 4)) instructionPage
  else if cmd.toNat % 32768 / 256 = 0x52 then onlyIf (hasPageGroup c (cmd.extractLsb' 4 4)) operandPage
  else none

theorem Word.extract_eq_iff (cmd : Word) (k n : Nat) (hk : k + n = 16) (x : BitVec n) :
    cmd.extractLsb' k n = x ↔ cmd.toNat / 2 ^ k = x.toNat := by
  rw [← BitVec.toNat_inj, BitVec.extractLsb'_toNat, Nat.shiftRight_eq_div_pow, Nat.mod_eq_of_lt]
  rw [Nat.div_lt_iff_lt_mul (by positivity), ← pow_add, Nat.add_comm, hk]
  exact cmd.isLt

/-- The codes of the output commands (40_input_output.md R221). -/
theorem msb_eq_false_iff {cmd : Word} : cmd.msb = false ↔ cmd.toNat < 32768 := by simp [BitVec.msb_eq_decide]

/-- The codes of the input commands (40_input_output.md R221). -/
theorem msb_eq_true_iff {cmd : Word} : cmd.msb = true ↔ 32768 ≤ cmd.toNat := by simp [BitVec.msb_eq_decide]

theorem groupOutput_eq {cmd : Word} (direction : cmd.msb = false) (c : Config) :
    groupOutput c cmd = channelGroup c cmd (.po cmd) (.spareOut cmd) (.lmp (cmd.extractLsb' 0 7))
      (.wipr (cmd.extractLsb' 4 4) (cmd.extractLsb' 0 4)) (.wopr (cmd.extractLsb' 4 4) (cmd.extractLsb' 0 4)) := by
  unfold groupOutput channelGroup
  simp only [Word.extract_eq_iff, Nat.reduceAdd, Nat.mod_eq_of_lt (msb_eq_false_iff.1 direction)]
  rfl

theorem groupInput_eq {cmd : Word} (direction : cmd.msb = true) (c : Config) :
    groupInput c cmd = channelGroup c cmd (.pi cmd) (.spareIn cmd) (.rmp (cmd.extractLsb' 0 7))
      (.ripr (cmd.extractLsb' 4 4) (cmd.extractLsb' 0 4)) (.ropr (cmd.extractLsb' 4 4) (cmd.extractLsb' 0 4)) := by
  have hlo := msb_eq_true_iff.1 direction
  have hhi := cmd.isLt
  have ram : cmd.toNat / 2 ^ 7 = (0xD0#8 ++ 0#1).toNat ↔ cmd.toNat % 32768 / 128 = 0xA0 := by
    show _ = 0x1A0 ↔ _
    omega
  have page (n : Nat) : cmd.toNat / 2 ^ 8 = n + 128 ↔ cmd.toNat % 32768 / 256 = n := by omega
  unfold groupInput channelGroup
  simp only [Word.extract_eq_iff, Nat.reduceAdd, ram, ← page]
  rfl

section Group

variable {α : Type} {c : Config} {cmd : Word} {port spare ram instructionPage operandPage : α}

theorem isSpare_iff : isSpare cmd = true ↔
    0x0400 ≤ cmd.toNat % 32768 ∧ cmd.toNat % 32768 ≤ 0x1FFF ∨
      0x3000 ≤ cmd.toNat % 32768 ∧ cmd.toNat % 32768 ≤ 0x3FFF ∨ 0x5300 ≤ cmd.toNat % 32768 := by
  simp [isSpare, or_assoc]

/-- The codes of ports and the spare codes are the same for output and input. -/
theorem answered_iff :
    Answered c cmd ↔ (cmd.toNat % 32768 ≤ 0x03FF ∨ isSpare cmd = true) ∧ answersCode c cmd = true := by
  have hlt := cmd.isLt
  have codes : (∃ r ∈ portCodes, r.1 ≤ cmd.toNat ∧ cmd.toNat ≤ r.2) ↔
      cmd.toNat % 32768 ≤ 0x03FF ∨ isSpare cmd = true := by
    simp only [isSpare_iff, portCodes, List.exists_mem_cons_iff, List.not_mem_nil, false_and, exists_false, or_false]
    omega
  rw [← codes, answersCode, List.any_eq_true]
  exact ⟨fun ⟨r, hr, lo, hi, g⟩ => ⟨⟨r, hr, lo, hi⟩, g⟩, fun ⟨⟨r, hr, lo, hi⟩, g⟩ => ⟨r, hr, lo, hi, g⟩⟩

theorem channelGroup_port (range : cmd.toNat % 32768 ≤ 0x03FF) (option : answersCode c cmd = true) :
    channelGroup c cmd port spare ram instructionPage operandPage = some port := by
  rw [channelGroup, if_pos range, onlyIf, if_pos option]

theorem channelGroup_spare (range : isSpare cmd = true) (option : answersCode c cmd = true) :
    channelGroup c cmd port spare ram instructionPage operandPage = some spare := by
  have codes := isSpare_iff.1 range
  rw [channelGroup, if_neg (by omega), if_pos range, onlyIf, if_pos option]

theorem channelGroup_ram (range : cmd.toNat % 32768 / 128 = 0xA0) (option : c.hasMprot = true) :
    channelGroup c cmd port spare ram instructionPage operandPage = some ram := by
  rw [channelGroup, if_neg (by omega), if_neg (by rw [isSpare_iff]; omega), if_pos range, onlyIf, if_pos option]

theorem channelGroup_instructionPage (range : cmd.toNat % 32768 / 256 = 0x51)
    (option : hasPageGroup c (cmd.extractLsb' 4 4) = true) :
    channelGroup c cmd port spare ram instructionPage operandPage = some instructionPage := by
  rw [channelGroup, if_neg (by omega), if_neg (by rw [isSpare_iff]; omega), if_neg (by omega), if_pos range, onlyIf,
    if_pos option]

theorem channelGroup_operandPage (range : cmd.toNat % 32768 / 256 = 0x52)
    (option : hasPageGroup c (cmd.extractLsb' 4 4) = true) :
    channelGroup c cmd port spare ram instructionPage operandPage = some operandPage := by
  rw [channelGroup, if_neg (by omega), if_neg (by rw [isSpare_iff]; omega), if_neg (by omega), if_neg (by omega),
    if_pos range, onlyIf, if_pos option]

/-- A machine implements a command of a channel group: one of the protect RAM that it has, of a page register of a
group that it has, or of a port or spare code that its devices answer. -/
def ImplementedGroup (c : Config) (cmd : Word) : Prop :=
  (cmd.toNat % 32768 / 128 = 0xA0 ∧ c.hasMprot = true) ∨
  ((cmd.toNat % 32768 / 256 = 0x51 ∨ cmd.toNat % 32768 / 256 = 0x52) ∧
    hasPageGroup c (cmd.extractLsb' 4 4) = true) ∨ Answered c cmd

theorem isSome_onlyIf (b : Bool) (x : α) : (onlyIf b x).isSome = true ↔ b = true := by cases b <;> simp [onlyIf]

theorem isSome_channelGroup_iff :
    (channelGroup c cmd port spare ram instructionPage operandPage).isSome = true ↔ ImplementedGroup c cmd := by
  unfold channelGroup ImplementedGroup
  rw [answered_iff]
  split_ifs with hport hspare hram hinstruction hoperand
  · have others : cmd.toNat % 32768 / 128 ≠ 0xA0 ∧ cmd.toNat % 32768 / 256 ≠ 0x51 ∧
        cmd.toNat % 32768 / 256 ≠ 0x52 := by omega
    simp [isSome_onlyIf, hport, others]
  · have others : cmd.toNat % 32768 / 128 ≠ 0xA0 ∧ cmd.toNat % 32768 / 256 ≠ 0x51 ∧
        cmd.toNat % 32768 / 256 ≠ 0x52 := by rw [isSpare_iff] at hspare; omega
    simp [isSome_onlyIf, hspare, others]
  · have others : cmd.toNat % 32768 / 256 ≠ 0x51 ∧ cmd.toNat % 32768 / 256 ≠ 0x52 := by omega
    simp [isSome_onlyIf, hport, hspare, hram, others]
  · simp [isSome_onlyIf, hport, hspare, hram, hinstruction]
  · simp [isSome_onlyIf, hport, hspare, hram, hoperand]
  · simp [hport, hspare, hram, hinstruction, hoperand]

end Group

/-! ### The codes that a machine implements -/

/-- The codes that `outCommand` decodes one by one; the others are those of channel groups. -/
def outputCodes : List Nat :=
  [0x2000, 0x2001, 0x2002, 0x2003, 0x2004, 0x2005, 0x200E, 0x2008, 0x200A, 0x4000, 0x4001, 0x4003, 0x4004, 0x4005,
   0x4006, 0x4007, 0x4008, 0x4009, 0x400A, 0x400B, 0x400C, 0x400D, 0x400E]

/-- The codes that `inCommand` decodes one by one. -/
def inputCodes : List Nat :=
  [0xA000, 0xA004, 0xA00E, 0xA00F, 0xA001, 0xA002, 0xA008, 0xA009, 0xA00B, 0xA00D, 0xC000, 0xC001, 0xC00A, 0xC00E]

/-- The codes that are decoded one by one. -/
def singleCodes : List Nat := outputCodes ++ inputCodes

theorem outCommand_of_not_single {c : Config} {cmd : Word} (h : cmd.toNat ∉ singleCodes) :
    outCommand c cmd = groupOutput c cmd := by
  unfold outCommand
  split
  case h_24 => rfl
  all_goals rename_i code; exact absurd (code ▸ by decide) h

theorem inCommand_of_not_single {c : Config} {cmd : Word} (h : cmd.toNat ∉ singleCodes) :
    inCommand c cmd = groupInput c cmd := by
  unfold inCommand
  split
  case h_15 => rfl
  all_goals rename_i code; exact absurd (code ▸ by decide) h

/-- The assigned codes are decoded one by one, but those of the protect RAM. -/
theorem single_of_assigned (c : Config) (n : Nat) : ∀ r ∈ assignedCodes c, r.1 ≤ n → n ≤ r.2.1 →
    n ∈ singleCodes ∨ n % 32768 / 128 = 0xA0 ∧ r.2.2 = c.hasMprot := by
  simp only [assignedCodes, List.forall_mem_cons]
  and_intros
  all_goals simp only [singleCodes, outputCodes, inputCodes, List.cons_append, List.nil_append, List.mem_cons,
    List.not_mem_nil, false_imp_iff, implies_true, and_true]
  all_goals omega

theorem hasPageGroup_iff {c : Config} {cmd : Word} :
    hasPageGroup c (cmd.extractLsb' 4 4) = true ↔ c.xmem = true ∧ cmd.toNat / 16 % 16 < c.groups := by
  simp [hasPageGroup, BitVec.extractLsb'_toNat, Nat.shiftRight_eq_div_pow]

theorem implemented_iff_of_not_single {c : Config} {cmd : Word} (h : cmd.toNat ∉ singleCodes) :
    Implemented c cmd ↔ ImplementedGroup c cmd := by
  have hlt := cmd.isLt
  have page : (∃ r ∈ pageCodes, r.1 ≤ cmd.toNat ∧ cmd.toNat ≤ r.2) ↔
      cmd.toNat % 32768 / 256 = 0x51 ∨ cmd.toNat % 32768 / 256 = 0x52 := by
    simp only [pageCodes, List.exists_mem_cons_iff, List.not_mem_nil, false_and, exists_false, or_false]
    omega
  unfold Implemented ImplementedGroup
  rw [hasPageGroup_iff, ← page]
  constructor
  · rintro (⟨r, hr, lo, hi, option⟩ | ⟨r, hr, lo, hi, group⟩ | answered)
    · obtain single | ⟨range, ram⟩ := single_of_assigned c _ r hr lo hi
      · exact absurd single h
      · exact .inl ⟨range, ram ▸ option⟩
    · exact .inr (.inl ⟨⟨r, hr, lo, hi⟩, group⟩)
    · exact .inr (.inr answered)
  · rintro (⟨range, option⟩ | ⟨⟨r, hr, lo, hi⟩, group⟩ | answered)
    · obtain ⟨lo, hi⟩ | ⟨lo, hi⟩ :
          0x5000 ≤ cmd.toNat ∧ cmd.toNat ≤ 0x507F ∨ 0xD000 ≤ cmd.toNat ∧ cmd.toNat ≤ 0xD07F := by omega
      · exact .inl ⟨(0x5000, 0x507F, c.hasMprot), by simp [assignedCodes], lo, hi, option⟩
      · exact .inl ⟨(0xD000, 0xD07F, c.hasMprot), by simp [assignedCodes], lo, hi, option⟩
    · exact .inr (.inl ⟨r, hr, lo, hi, group⟩)
    · exact .inr (.inr answered)

/-- No code that is decoded by itself is one of a page register, a port or a spare code. -/
theorem implemented_iff_of_single {c : Config} {cmd : Word} (h : cmd.toNat ∈ singleCodes) :
    Implemented c cmd ↔ ∃ r ∈ assignedCodes c, r.1 ≤ cmd.toNat ∧ cmd.toNat ≤ r.2.1 ∧ r.2.2 = true := by
  have noPage : ∀ n ∈ singleCodes, ∀ r ∈ pageCodes, r.1 ≤ n → ¬n ≤ r.2 := by decide
  have noPort : ∀ n ∈ singleCodes, ∀ r ∈ portCodes, r.1 ≤ n → ¬n ≤ r.2 := by decide
  refine ⟨?_, .inl⟩
  rintro (assigned | ⟨r, hr, lo, hi, -⟩ | ⟨r, hr, lo, hi, -⟩)
  · exact assigned
  · exact absurd hi (noPage _ h r hr lo)
  · exact absurd hi (noPort _ h r hr lo)

/-- A machine implements an output command exactly where it decodes it (40_input_output.md R225, R226). -/
theorem isSome_outCommand_iff {c : Config} {cmd : Word} (direction : cmd.msb = false) :
    (outCommand c cmd).isSome = true ↔ Implemented c cmd := by
  by_cases h : cmd.toNat ∈ singleCodes
  · rw [implemented_iff_of_single h]
    unfold outCommand
    split
    case h_24 =>
      have key : ∀ n ∈ singleCodes, n < 32768 → n ∈ outputCodes := by decide
      have mem := key _ h (msb_eq_false_iff.1 direction)
      simp_all [outputCodes]
    all_goals
      rename_i code
      simp only [assignedCodes, List.exists_mem_cons_iff, List.not_mem_nil, code, isSome_onlyIf, Option.isSome_some,
        Nat.reduceLeDiff, true_and, false_and, exists_false, or_false, false_or]
  · rw [outCommand_of_not_single h, groupOutput_eq direction, isSome_channelGroup_iff, implemented_iff_of_not_single h]

/-- A machine implements an input command exactly where it decodes it (40_input_output.md R225, R226). -/
theorem isSome_inCommand_iff {c : Config} {cmd : Word} (direction : cmd.msb = true) :
    (inCommand c cmd).isSome = true ↔ Implemented c cmd := by
  by_cases h : cmd.toNat ∈ singleCodes
  · rw [implemented_iff_of_single h]
    unfold inCommand
    split
    case h_15 =>
      have key : ∀ n ∈ singleCodes, 32768 ≤ n → n ∈ inputCodes := by decide
      have mem := key _ h (msb_eq_true_iff.1 direction)
      simp_all [inputCodes]
    all_goals
      rename_i code
      simp only [assignedCodes, List.exists_mem_cons_iff, List.not_mem_nil, code, isSome_onlyIf, Option.isSome_some,
        Nat.reduceLeDiff, true_and, false_and, exists_false, or_false, false_or]
  · rw [inCommand_of_not_single h, groupInput_eq direction, isSome_channelGroup_iff, implemented_iff_of_not_single h]

theorem exists_outCommand {c : Config} {cmd : Word} (direction : cmd.msb = false) (h : Implemented c cmd) :
    ∃ k, outCommand c cmd = some k := Option.isSome_iff_exists.1 ((isSome_outCommand_iff direction).2 h)

theorem exists_inCommand {c : Config} {cmd : Word} (direction : cmd.msb = true) (h : Implemented c cmd) :
    ∃ k, inCommand c cmd = some k := Option.isSome_iff_exists.1 ((isSome_inCommand_iff direction).2 h)

theorem outCommand_eq_none {c : Config} {cmd : Word} (direction : cmd.msb = false) (h : ¬Implemented c cmd) :
    outCommand c cmd = none := by
  rwa [← isSome_outCommand_iff direction, Option.not_isSome_iff_eq_none] at h

theorem inCommand_eq_none {c : Config} {cmd : Word} (direction : cmd.msb = true) (h : ¬Implemented c cmd) :
    inCommand c cmd = none := by
  rwa [← isSome_inCommand_iff direction, Option.not_isSome_iff_eq_none] at h

/-! ### The codes of each channel group -/

/-- A code of a channel group is not decoded by itself. -/
theorem ImplementedGroup.not_single {c : Config} {cmd : Word} (h : ImplementedGroup c cmd) :
    cmd.toNat ∉ singleCodes := by
  have noGroup : ∀ n ∈ singleCodes, n % 32768 / 128 ≠ 0xA0 ∧ n % 32768 / 256 ≠ 0x51 ∧ n % 32768 / 256 ≠ 0x52 ∧
      ∀ r ∈ portCodes, r.1 ≤ n → ¬n ≤ r.2 := by decide
  intro single
  obtain ⟨noRam, noInstruction, noOperand, noPort⟩ := noGroup _ single
  obtain ⟨ram, -⟩ | ⟨instruction | operand, -⟩ | ⟨r, hr, lo, hi, -⟩ := h
  · exact noRam ram
  · exact noInstruction instruction
  · exact noOperand operand
  · exact noPort r hr lo hi

section Codes

variable {c : Config} {cmd : Word}

/-- An output command of a channel group that the machine has is decoded by its group. -/
theorem outCommand_of_group (direction : cmd.msb = false) (h : ImplementedGroup c cmd) :
    outCommand c cmd = channelGroup c cmd (.po cmd) (.spareOut cmd) (.lmp (cmd.extractLsb' 0 7))
      (.wipr (cmd.extractLsb' 4 4) (cmd.extractLsb' 0 4)) (.wopr (cmd.extractLsb' 4 4) (cmd.extractLsb' 0 4)) := by
  rw [outCommand_of_not_single h.not_single, groupOutput_eq direction]

/-- So is an input command. -/
theorem inCommand_of_group (direction : cmd.msb = true) (h : ImplementedGroup c cmd) :
    inCommand c cmd = channelGroup c cmd (.pi cmd) (.spareIn cmd) (.rmp (cmd.extractLsb' 0 7))
      (.ripr (cmd.extractLsb' 4 4) (cmd.extractLsb' 0 4)) (.ropr (cmd.extractLsb' 4 4) (cmd.extractLsb' 0 4)) := by
  rw [inCommand_of_not_single h.not_single, groupInput_eq direction]

theorem outCommand_of_port (h : Answered c cmd) (range : cmd.toNat ≤ 0x03FF) :
    outCommand c cmd = some (.po cmd) := by
  rw [outCommand_of_group (msb_eq_false_iff.2 (by omega)) (.inr (.inr h)),
    channelGroup_port (by omega) (answered_iff.1 h).2]

theorem outCommand_of_spare (h : Answered c cmd) (lo : 0x0400 ≤ cmd.toNat) (hi : cmd.toNat < 0x8000) :
    outCommand c cmd = some (.spareOut cmd) := by
  obtain ⟨low | spare, answers⟩ := answered_iff.1 h
  · omega
  · rw [outCommand_of_group (msb_eq_false_iff.2 hi) (.inr (.inr h)), channelGroup_spare spare answers]

/-- A programmed and a spare input take a word of the port of their code. -/
theorem runInput_of_answered (h : Answered c cmd) (direction : cmd.msb = true) :
    ∃ k, inCommand c cmd = some k ∧ ∀ s : State, s.runInput k = s.takePortWord cmd := by
  rw [inCommand_of_group direction (.inr (.inr h))]
  obtain ⟨low | spare, answers⟩ := answered_iff.1 h
  · exact ⟨.pi cmd, channelGroup_port low answers, fun _ => rfl⟩
  · exact ⟨.spareIn cmd, channelGroup_spare spare answers, fun _ => rfl⟩

/-- The code of a word of the protect RAM, and the number in it (40_input_output.md R257, R270). -/
theorem ramCode {base : Nat} (h : base % 128 = 0) (hb : base < 65408) (k : Fin 128) :
    (BitVec.ofNat 16 (base + k.val)).toNat = base + k.val ∧
      ((BitVec.ofNat 16 (base + k.val)).extractLsb' 0 7).toNat = k.val := by
  have hk := k.isLt
  simp only [BitVec.extractLsb'_toNat, BitVec.toNat_ofNat, Nat.shiftRight_zero]
  omega

theorem outCommand_of_ram (option : c.hasMprot = true) (range : cmd.toNat / 128 = 0xA0) :
    outCommand c cmd = some (.lmp (cmd.extractLsb' 0 7)) := by
  have code : cmd.toNat % 32768 / 128 = 0xA0 := by omega
  rw [outCommand_of_group (msb_eq_false_iff.2 (by omega)) (.inl ⟨code, option⟩), channelGroup_ram code option]

theorem inCommand_of_ram (option : c.hasMprot = true) (range : cmd.toNat / 128 = 0x1A0) :
    inCommand c cmd = some (.rmp (cmd.extractLsb' 0 7)) := by
  have code : cmd.toNat % 32768 / 128 = 0xA0 := by omega
  rw [inCommand_of_group (msb_eq_true_iff.2 (by omega)) (.inl ⟨code, option⟩), channelGroup_ram code option]

/-! ### The codes of the page registers -/

section Pages

variable {op : Byte} {g p : Nibble}

theorem group_of_pageCode : (op ++ g ++ p : Word).extractLsb' 4 4 = g := fieldOne_wordOf op g p

theorem page_of_pageCode : (op ++ g ++ p : Word).extractLsb' 0 4 = p := fieldTwo_wordOf op g p

theorem byte_of_pageCode : (op ++ g ++ p : Word).toNat / 256 = op.toNat :=
  (Word.extract_eq_iff _ 8 8 rfl op).1 (opByte_wordOf op g p)

/-- The channel group of a page register's code is in its first byte, the direction bit apart. -/
theorem range_of_pageCode : (op ++ g ++ p : Word).toNat % 32768 / 256 = op.toNat % 128 := by
  have byte := byte_of_pageCode (op := op) (g := g) (p := p)
  omega

theorem msb_pageCode : (op ++ g ++ p : Word).msb = op.msb := by
  have byte := byte_of_pageCode (op := op) (g := g) (p := p)
  rw [Bool.eq_iff_iff, msb_eq_true_iff, BitVec.msb_eq_decide, decide_eq_true_iff]
  omega

variable (hx : c.xmem = true) (hg : g.toNat < c.groups)

include hx hg

theorem option_of_pageCode : hasPageGroup c ((op ++ g ++ p : Word).extractLsb' 4 4) = true := by
  rw [group_of_pageCode]; simp [hasPageGroup, hx, hg]

theorem implementedGroup_pageCode (h : op.toNat % 128 = 0x51 ∨ op.toNat % 128 = 0x52) :
    ImplementedGroup c (op ++ g ++ p) := .inr (.inl ⟨by rwa [range_of_pageCode], option_of_pageCode hx hg⟩)

theorem outCommand_instructionPage : outCommand c (0x51#8 ++ g ++ p) = some (.wipr g p) := by
  rw [outCommand_of_group msb_pageCode (implementedGroup_pageCode hx hg (.inl rfl)),
    channelGroup_instructionPage range_of_pageCode (option_of_pageCode hx hg), group_of_pageCode, page_of_pageCode]

theorem outCommand_operandPage : outCommand c (0x52#8 ++ g ++ p) = some (.wopr g p) := by
  rw [outCommand_of_group msb_pageCode (implementedGroup_pageCode hx hg (.inr rfl)),
    channelGroup_operandPage range_of_pageCode (option_of_pageCode hx hg), group_of_pageCode, page_of_pageCode]

theorem inCommand_instructionPage : inCommand c (0xD1#8 ++ g ++ p) = some (.ripr g p) := by
  rw [inCommand_of_group msb_pageCode (implementedGroup_pageCode hx hg (.inl rfl)),
    channelGroup_instructionPage range_of_pageCode (option_of_pageCode hx hg), group_of_pageCode, page_of_pageCode]

theorem inCommand_operandPage : inCommand c (0xD2#8 ++ g ++ p) = some (.ropr g p) := by
  rw [inCommand_of_group msb_pageCode (implementedGroup_pageCode hx hg (.inr rfl)),
    channelGroup_operandPage range_of_pageCode (option_of_pageCode hx hg), group_of_pageCode, page_of_pageCode]

end Pages

end Codes

end Sys2Proof.Claims
end

section
/-! SUPPORT. What XIO does with a command that the machine implements and with one that it does not (40_input_output.md
R224, R226), and which command each code of the statements is. -/

namespace Sys2Proof.Claims

open Sys2Proof.Machine

/-! ### The word of a register put out, a word delivered -/

/-- An output command that the machine has, what it does with a word. -/
def Outputs (s : State) (code v : Word) (t : State) : Prop :=
  code.msb = false ∧ ∃ k, outCommand s.cfg code = some k ∧ s.runOutput k v = t

/-- An input command that the machine has, the word that it delivers and what else it does. -/
def Inputs (s : State) (code w : Word) (t : State) : Prop :=
  code.msb = true ∧ ∃ k, inCommand s.cfg code = some k ∧ s.runInput k = (w, t)

section Xio

variable {s t : State} {ra rx : Reg} {cmd w : Word}

theorem exec_xio (supervisor : s.ps = 0#4) :
    exec (.xio ra cmd rx) s = executeCommand ra (s.direct cmd rx) (s.advance 2) := if_pos supervisor

/-- XIO with an output command puts out the word of its register (40_input_output.md R224). -/
theorem exec_xio_of_outputs (supervisor : s.ps = 0#4) (h : Outputs s (s.direct cmd rx) (s.reg ra) t) :
    exec (.xio ra cmd rx) s = .next { t with ic := s.ic + 2 } := by
  obtain ⟨direction, k, decoded, rfl⟩ := h
  rw [exec_xio supervisor, executeCommand, direction, if_neg Bool.false_ne_true, State.doOutput, State.advance_cfg,
    decoded, State.reg_advance]
  dsimp only
  rw [State.runOutput_advance, State.advance, State.ic_runOutput]

/-- XIO with an input command puts the word delivered in its register (40_input_output.md R224). -/
theorem exec_xio_of_input {k : InCommand} (supervisor : s.ps = 0#4) (direction : (s.direct cmd rx).msb = true)
    (decoded : inCommand s.cfg (s.direct cmd rx) = some k) :
    exec (.xio ra cmd rx) s =
      .next { (s.runInput k).2 with ic := s.ic + 2, regs := s.regs.set ra.toNat (s.runInput k).1 } := by
  rw [exec_xio supervisor, executeCommand, direction, if_pos rfl, State.doInput, State.advance_cfg, decoded]
  dsimp only
  rw [State.runInput_advance, State.setReg, State.advance, State.regs_runInput, State.ic_runInput]

theorem exec_xio_of_inputs (supervisor : s.ps = 0#4) (h : Inputs s (s.direct cmd rx) w t) :
    exec (.xio ra cmd rx) s = .next { t with ic := s.ic + 2, regs := s.regs.set ra.toNat w } := by
  obtain ⟨direction, k, decoded, run⟩ := h
  rw [exec_xio_of_input supervisor direction decoded, run]

/-- XIO with a command that the machine does not decode is aborted by fault 5 (40_input_output.md R226). -/
theorem exec_xio_of_not_implemented (supervisor : s.ps = 0#4) (h : ¬Implemented s.cfg (s.direct cmd rx)) :
    exec (.xio ra cmd rx) s = .next (aborted s (s.ic + 2) 5 none) := by
  rw [exec_xio supervisor, executeCommand, State.doInput, State.doOutput, State.advance_cfg]
  cases direction : (s.direct cmd rx).msb with
  | true =>
    rw [inCommand_eq_none direction h]; rfl
  | false =>
    rw [outCommand_eq_none direction h]; rfl

end Xio

/-! ### The commands by their codes -/

section ByCode

variable {s t : State} {code v w : Word}

theorem Controls.outputs (h : Controls s v code t) : Outputs s code v t := by
  cases h
  case smk => exact ⟨rfl, .smk, rfl, rfl⟩
  case clir => exact ⟨rfl, .clir, rfl, rfl⟩
  case enbl => exact ⟨rfl, .enbl, rfl, rfl⟩
  case dsbl => exact ⟨rfl, .dsbl, rfl, rfl⟩
  case spi => exact ⟨rfl, .spi, rfl, rfl⟩
  case rpi =>
    refine ⟨rfl, .rpi, rfl, ?_⟩
    have number : (v.extractLsb' 0 4).toNat = v.toNat % 16 := by simp [BitVec.extractLsb'_toNat]
    have one : v.extractLsb' 0 4 = 1 ↔ v.toNat % 16 = 1 := by rw [← number, ← BitVec.toNat_inj]; rfl
    simp only [State.runOutput, State.resetPending, number, one]

theorem outputs_of_option {b : Bool} {k : OutCommand} (hb : b = true) (direction : code.msb = false)
    (decoded : outCommand s.cfg code = onlyIf b k) (run : s.runOutput k v = t) : Outputs s code v t :=
  ⟨direction, k, decoded.trans (onlyIf_eq_some.2 ⟨hb, rfl⟩), run⟩

theorem inputs_of_option {b : Bool} {k : InCommand} (hb : b = true) (direction : code.msb = true)
    (decoded : inCommand s.cfg code = onlyIf b k) (run : s.runInput k = (w, t)) : Inputs s code w t :=
  ⟨direction, k, decoded.trans (onlyIf_eq_some.2 ⟨hb, rfl⟩), run⟩

theorem Configures.outputs (h : Configures s v code t) : Outputs s code v t := by
  cases h
  case po range answered =>
    exact ⟨msb_eq_false_iff.2 (by omega), .po code, outCommand_of_port answered range, rfl⟩
  case spare lo hi answered =>
    exact ⟨msb_eq_false_iff.2 (by omega), .spareOut code, outCommand_of_spare answered lo hi, rfl⟩
  case co option connected => exact outputs_of_option option rfl rfl (if_pos connected)
  case coAlone option alone => exact outputs_of_option option rfl rfl (if_neg (by rw [alone]; exact Bool.false_ne_true))
  case lmp k option =>
    obtain ⟨number, word⟩ := ramCode (base := 0x5000) rfl (by decide) k
    refine ⟨msb_eq_false_iff.2 (by omega), _, outCommand_of_ram option (by omega), ?_⟩
    simp only [State.runOutput, word]
  case wipr g p hx hg => exact ⟨msb_pageCode, _, outCommand_instructionPage hx hg, rfl⟩
  case wopr g p hx hg => exact ⟨msb_pageCode, _, outCommand_operandPage hx hg, rfl⟩
  all_goals exact outputs_of_option ‹_› rfl rfl rfl

theorem Delivers.inputs (h : Delivers s code w) : Inputs s code w s := by
  cases h
  case rmk => exact ⟨rfl, .rmk, rfl, rfl⟩
  case rpir => exact ⟨rfl, .rpir, rfl, rfl⟩
  case rsw => exact ⟨rfl, .rsw, rfl, rfl⟩
  case rmp k option =>
    obtain ⟨number, word⟩ := ramCode (base := 0xD000) rfl (by decide) k
    refine ⟨msb_eq_true_iff.2 (by omega), _, inCommand_of_ram option (by omega), ?_⟩
    simp only [State.runInput, word]
  case ripr g p hx hg => exact ⟨msb_pageCode, _, inCommand_instructionPage hx hg, rfl⟩
  case ropr g p hx hg => exact ⟨msb_pageCode, _, inCommand_operandPage hx hg, rfl⟩
  all_goals exact inputs_of_option ‹_› rfl rfl rfl

end ByCode

/-! ### The words that wait -/

section Waiting

variable {s : State} {code w : Word}

/-- The first word that waits under a code is taken (40_input_output.md R235, R273). -/
theorem State.takePortWord_of_waiting {before after : List (Word × Word)}
    (h : s.io.portIn = before ++ (code, w) :: after) (first : ∀ b ∈ before, b.1 ≠ code) :
    s.takePortWord code = (w, { s with io := { s.io with portIn := before ++ after } }) := by
  have find : s.io.portIn.find? (fun p => p.1 == code) = some (code, w) := by
    rw [h, List.find?_append, List.find?_eq_none.2 (by simpa using first)]
    simp
  have erase : s.io.portIn.erase (code, w) = before ++ after := by
    rw [h, List.erase_append_right _ (fun hb => first _ hb rfl), List.erase_cons_head]
  rw [State.takePortWord, find]
  dsimp only
  rw [erase]

/-- Where no word waits under a code the word taken is open (log 15). -/
theorem State.takePortWord_of_empty (h : ∀ b ∈ s.io.portIn, b.1 ≠ code) : s.takePortWord code = s.draw := by
  rw [State.takePortWord, List.find?_eq_none.2 (by simpa using h)]

theorem State.takeConsoleWord_of_two {b1 b2 : Byte} {rest : List Byte} (attached : s.console.connected = true)
    (h : s.console.input = b1 :: b2 :: rest) :
    s.takeConsoleWord = (b1 ++ b2, { s with console := { s.console with input := rest } }) := by
  rw [State.takeConsoleWord, attached, h]

/-- Where no console is attached, or it has not sent two bytes, the word taken is open (log 14). -/
theorem State.takeConsoleWord_of_short (h : s.console.connected = false ∨ s.console.input.length < 2) :
    s.takeConsoleWord = s.draw := by
  unfold State.takeConsoleWord
  split
  case h_1 attached input => simp [attached, input] at h
  case h_2 => rfl

theorem exec_xio_of_draw {ra rx : Reg} {cmd : Word} (supervisor : s.ps = 0#4)
    (h : Inputs s (s.direct cmd rx) s.draw.1 s.draw.2) : ∃ (v : Word) (n : Nat), exec (.xio ra cmd rx) s =
      .next { s with ic := s.ic + 2, regs := s.regs.set ra.toNat v, freeCount := n } :=
  ⟨_, _, exec_xio_of_inputs (t := s.draw.2) supervisor h⟩

end Waiting

end Sys2Proof.Claims

open Sys2Proof Sys2Proof.Machine Sys2Proof.Claims

/-- Settles O56: each code is decoded as its command, and what the command does is put in the register. -/
theorem inputCommandResult : Obligations.InputCommandResult := by
  unfold Obligations.InputCommandResult
  intro ra cmd rx s supervisor
  refine ⟨fun w h => ?delivers, fun code => ?rcfr, fun option code => ?ric1, fun option code => ?ric2,
    fun direction answered => ?port, fun option code => ?console⟩
  case delivers =>
    exact ⟨_, exec_xio_of_inputs supervisor h.inputs, (leaves_advance s 2).setReg ra w⟩
  case rcfr => exact exec_xio_of_input (k := .rcfr) supervisor (by rw [code]; rfl) (by rw [code]; rfl)
  case ric1 =>
    exact exec_xio_of_input (k := .ric1) supervisor (by rw [code]; rfl)
      (by rw [code]; exact onlyIf_eq_some.2 ⟨option, rfl⟩)
  case ric2 =>
    exact exec_xio_of_input (k := .ric2) supervisor (by rw [code]; rfl)
      (by rw [code]; exact onlyIf_eq_some.2 ⟨option, rfl⟩)
  case port =>
    obtain ⟨k, decoded, run⟩ := runInput_of_answered answered (msb_eq_true_iff.2 direction)
    have inputs {w : Word} {t : State} (taken : s.takePortWord (s.direct cmd rx) = (w, t)) :
        Inputs s (s.direct cmd rx) w t := ⟨msb_eq_true_iff.2 direction, k, decoded, (run s).trans taken⟩
    exact ⟨fun before after w waiting first =>
        exec_xio_of_inputs supervisor (inputs (State.takePortWord_of_waiting waiting first)),
      fun empty => exec_xio_of_draw supervisor (inputs (State.takePortWord_of_empty empty))⟩
  case console =>
    have inputs {w : Word} {t : State} (run : s.takeConsoleWord = (w, t)) : Inputs s (s.direct cmd rx) w t :=
      code ▸ inputs_of_option (k := .ci) option rfl rfl run
    exact ⟨fun b1 b2 rest attached input =>
        exec_xio_of_inputs supervisor (inputs (State.takeConsoleWord_of_two attached input)),
      fun short => exec_xio_of_draw supervisor (inputs (State.takeConsoleWord_of_short short))⟩

/-- Settles O57: each code is decoded as its command; WSW is a status word load. -/
theorem controlCommandResult : Obligations.ControlCommandResult := by
  unfold Obligations.ControlCommandResult
  intro ra cmd rx s supervisor
  refine ⟨fun t h => exec_xio_of_outputs supervisor h.outputs, fun code => ?_⟩
  have outputs : Outputs s (s.direct cmd rx) (s.reg ra) (s.loadSw (s.reg ra)) := code ▸ ⟨rfl, .wsw, rfl, rfl⟩
  obtain ⟨status, fault, request⟩ := loadsStatus s (s.reg ra)
  exact ⟨_, exec_xio_of_outputs supervisor outputs, ⟨status, fault, request⟩, rfl, by rw [State.loadSw_eq]⟩

/-- Settles O58: each code is decoded as its command. -/
theorem configurationCommandResult : Obligations.ConfigurationCommandResult := by
  unfold Obligations.ConfigurationCommandResult
  intro ra cmd rx s t supervisor h
  exact exec_xio_of_outputs supervisor h.outputs

/-- Settles O59: a machine implements the codes that it decodes, and no command records an illegal one. -/
theorem illegalCommandFaults : Obligations.IllegalCommandFaults := by
  unfold Obligations.IllegalCommandFaults
  intro ra cmd rx s supervisor
  refine ⟨exec_xio_of_not_implemented supervisor, fun implemented => ?_⟩
  cases direction : (s.direct cmd rx).msb with
  | false =>
    obtain ⟨k, decoded⟩ := exists_outCommand direction implemented
    exact ⟨_, exec_xio_of_outputs supervisor ⟨direction, k, decoded, rfl⟩, rfl, State.illegalBit_runOutput⟩
  | true =>
    obtain ⟨k, decoded⟩ := exists_inCommand direction implemented
    exact ⟨_, exec_xio_of_inputs supervisor ⟨direction, k, decoded, rfl⟩, rfl, State.illegalBit_runInput⟩
end

section
/-! SUPPORT. The run of a VIO (40_input_output.md R275, R276): what one selected command does, and what the commands
from a bit of the select word on do. -/

namespace Sys2Proof.Claims

open Sys2Proof.Machine

/-! ### The select word -/

/-- A bit of the select word is one (00_scope.md R13). -/
theorem and_bitMask_ne_zero_iff (v : Word) {n : Nat} (hn : n < 16) : v &&& bitMask n ≠ 0 ↔ v.getMsbD n = true := by
  have bit (i : Nat) (hi : i < 16) : (bitMask n).getLsbD i = decide (i = 15 - n) := by
    rw [bitMask, BitVec.getLsbD_ushiftRight, show (0x8000#16) = BitVec.twoPow 16 15 from rfl, BitVec.getLsbD_twoPow,
      Bool.eq_iff_iff]
    simp
    omega
  have msb : v.getMsbD n = v.getLsbD (15 - n) := by simp [BitVec.getMsbD, hn]
  rw [msb]
  constructor
  · intro nonzero
    by_contra clear
    refine nonzero (BitVec.eq_of_getLsbD_eq fun i hi => ?_)
    by_cases hin : i = 15 - n
    · simp [hin, clear]
    · simp [bit i hi, hin]
  · intro set zero
    have := congrArg (fun x : Word => x.getLsbD (15 - n)) zero
    simp [bit (15 - n) (by omega), set] at this

/-! ### One command -/

section Command

variable {s t : State} {cmd la : Word}

/-- One word that can be stored is stored. -/
theorem State.writeAll_one {w : Word} (h : s.Writable la 1) :
    s.writeAll s.as s.ps [(la, w)] = (s.storePhysical (s.target la) w, none) := by
  have allowed : s.writeFault (s.operandRef la) s.ps = none := by simpa using h.2 0 (by omega)
  rw [State.writeAll_of_allowed h.1 fun p hp => by rw [List.mem_singleton.1 hp]; exact allowed]
  rfl

/-- One word that cannot be stored is not, and nothing changes. -/
theorem State.writeAll_one_of_refused {w : Word} {k : CpuFault} (quiet : s.bus = [])
    (refused : s.writeFault (s.operandRef la) s.ps = some k) :
    s.writeAll s.as s.ps [(la, w)] = (s, some ⟨k, some (s.operandRef la)⟩) :=
  State.writeAll_of_refused (before := []) quiet (by simp) refused

theorem vectorCommand_of_output {k : OutCommand} (direction : cmd.msb = false) (decoded : outCommand s.cfg cmd = some k)
    (h : s.Readable la 1) : vectorCommand cmd la s = (s.runOutput k (s.wordAt la), none) := by
  rw [vectorCommand, direction, if_neg Bool.false_ne_true, decoded]
  dsimp only
  rw [State.read_of_readable h (by omega)]

theorem vectorCommand_of_input {k : InCommand} (direction : cmd.msb = true) (decoded : inCommand s.cfg cmd = some k)
    (h : (s.runInput k).2.Writable la 1) : vectorCommand cmd la s =
      ((s.runInput k).2.storePhysical ((s.runInput k).2.target la) (s.runInput k).1, none) := by
  rw [vectorCommand, direction, if_pos rfl, State.doInput, decoded]
  dsimp only
  rw [State.writeAll_one h]

theorem vectorCommand_of_not_implemented (h : ¬Implemented s.cfg cmd) :
    vectorCommand cmd la s = (s, some ⟨.illegalCommand, none⟩) := by
  rw [vectorCommand, State.doInput]
  cases direction : cmd.msb with
  | true =>
    rw [inCommand_eq_none direction h]; rfl
  | false =>
    rw [outCommand_eq_none direction h]; rfl

theorem vectorCommand_of_unreadable {k : CpuFault} (direction : cmd.msb = false) (h : Implemented s.cfg cmd)
    (quiet : s.bus = []) (refused : s.readFault (s.operandRef la) s.ps = some k) :
    vectorCommand cmd la s = (s, some ⟨k, some (s.operandRef la)⟩) := by
  obtain ⟨c, decoded⟩ := exists_outCommand direction h
  rw [vectorCommand, direction, if_neg Bool.false_ne_true, decoded]
  dsimp only
  rw [State.read_of_refused quiet refused]

/-- An input command whose word cannot be stored releases nothing (log 24). -/
theorem vectorCommand_of_unwritable {k : CpuFault} (direction : cmd.msb = true) (h : Implemented s.cfg cmd)
    (quiet : s.bus = []) (refused : s.writeFault (s.operandRef la) s.ps = some k) :
    vectorCommand cmd la s = (s, some ⟨k, some (s.operandRef la)⟩) := by
  obtain ⟨c, decoded⟩ := exists_inCommand direction h
  have reference : (s.runInput c).2.operandRef la = s.operandRef la := by rw [State.runInput_eq]; rfl
  have key : (s.runInput c).2.ps = s.ps := by rw [State.runInput_eq]; rfl
  have bus : (s.runInput c).2.bus = [] := by rw [State.runInput_eq]; exact quiet
  rw [vectorCommand, direction, if_pos rfl, State.doInput, decoded]
  dsimp only
  rw [State.writeAll_one_of_refused bus (by rw [State.writeFault_runInput, reference, key]; exact refused),
    State.awaitBus_of_quiet quiet, reference]

end Command

/-! ### What the commands leave unchanged -/

/-- Two states have the same configuration, general registers, IC and events to come. -/
def SameFrame (s t : State) : Prop := t.cfg = s.cfg ∧ t.regs = s.regs ∧ t.ic = s.ic ∧ t.env = s.env

theorem SameFrame.trans {s t u : State} (h : SameFrame s t) (h' : SameFrame t u) : SameFrame s u := by
  obtain ⟨cfg, regs, counter, env⟩ := h
  obtain ⟨cfg', regs', counter', env'⟩ := h'
  exact ⟨cfg'.trans cfg, regs'.trans regs, counter'.trans counter, env'.trans env⟩

theorem sameFrame_runOutput (s : State) (c : OutCommand) (v : Word) : SameFrame s (s.runOutput c v) := by
  rw [State.runOutput_eq]; exact ⟨rfl, rfl, rfl, rfl⟩

theorem sameFrame_runInput_store (s : State) (c : InCommand) (pa : Nat) (w : Word) :
    SameFrame s ((s.runInput c).2.storePhysical pa w) := by
  rw [State.runInput_eq]; exact ⟨rfl, rfl, rfl, rfl⟩

/-! ### The selected commands -/

section Run

variable {base step select la : Word} {n : Nat} {s t : State}

/-- The bits of the select word from one on. -/
theorem range'_succ (hn : n < 16) : List.range' n (16 - n) = n :: List.range' (n + 1) (16 - (n + 1)) := by
  rw [show 16 - n = 16 - (n + 1) + 1 by omega, List.range'_succ]

theorem vectorCommands_of_clear (hn : n < 16) (clear : select.getMsbD n = false) :
    vectorCommands base step select la (List.range' n (16 - n)) s =
      vectorCommands base step select la (List.range' (n + 1) (16 - (n + 1))) s := by
  rw [range'_succ hn, vectorCommands, if_neg (by rw [and_bitMask_ne_zero_iff _ hn, clear]; exact Bool.false_ne_true)]

theorem vectorCommands_of_done (hn : n < 16) (set : select.getMsbD n = true)
    (h : vectorCommand (base + BitVec.ofNat 16 n * step) la s = (t, none)) :
    vectorCommands base step select la (List.range' n (16 - n)) s =
      vectorCommands base step select (la + 1) (List.range' (n + 1) (16 - (n + 1))) t := by
  rw [range'_succ hn, vectorCommands, if_pos ((and_bitMask_ne_zero_iff _ hn).2 set), h]

theorem vectorCommands_of_stopped {a : Abort} (hn : n < 16) (set : select.getMsbD n = true)
    (h : vectorCommand (base + BitVec.ofNat 16 n * step) la s = (t, some a)) :
    vectorCommands base step select la (List.range' n (16 - n)) s = (t, some a) := by
  rw [range'_succ hn, vectorCommands, if_pos ((and_bitMask_ne_zero_iff _ hn).2 set), h]

/-- A run is what the commands do (40_input_output.md R275). -/
theorem VectorRun.commands (h : VectorRun base step select n la s t) :
    vectorCommands base step select la (List.range' n (16 - n)) s = (t, none) ∧ SameFrame s t := by
  induction h with
  | done la s => exact ⟨rfl, rfl, rfl, rfl, rfl⟩
  | skip hn clear _ ih => exact ⟨(vectorCommands_of_clear hn clear).trans ih.1, ih.2⟩
  | output c hn set direction decoded readable _ ih =>
    exact ⟨(vectorCommands_of_done hn set (vectorCommand_of_output direction decoded readable)).trans ih.1,
      (sameFrame_runOutput _ c _).trans ih.2⟩
  | input c hn set direction decoded writable _ ih =>
    exact ⟨(vectorCommands_of_done hn set (vectorCommand_of_input direction decoded writable)).trans ih.1,
      (sameFrame_runInput_store _ c _ _).trans ih.2⟩

/-- A run that a command stops is what the commands do (40_input_output.md R276). -/
theorem VectorStops.commands {k : CpuFault} {ref : Option MemRef} (h : VectorStops base step select n la s t k ref) :
    vectorCommands base step select la (List.range' n (16 - n)) s = (t, some ⟨k, ref⟩) ∧ SameFrame s t := by
  induction h with
  | skip hn clear _ ih => exact ⟨(vectorCommands_of_clear hn clear).trans ih.1, ih.2⟩
  | output c hn set direction decoded readable _ ih =>
    exact ⟨(vectorCommands_of_done hn set (vectorCommand_of_output direction decoded readable)).trans ih.1,
      (sameFrame_runOutput _ c _).trans ih.2⟩
  | input c hn set direction decoded writable _ ih =>
    exact ⟨(vectorCommands_of_done hn set (vectorCommand_of_input direction decoded writable)).trans ih.1,
      (sameFrame_runInput_store _ c _ _).trans ih.2⟩
  | illegal hn set unimplemented =>
    exact ⟨vectorCommands_of_stopped hn set (vectorCommand_of_not_implemented unimplemented), rfl, rfl, rfl, rfl⟩
  | unreadable hn set direction implemented quiet refused =>
    exact ⟨vectorCommands_of_stopped hn set (vectorCommand_of_unreadable direction implemented quiet refused),
      rfl, rfl, rfl, rfl⟩
  | unwritable hn set direction implemented quiet refused =>
    exact ⟨vectorCommands_of_stopped hn set (vectorCommand_of_unwritable direction implemented quiet refused),
      rfl, rfl, rfl, rfl⟩

end Run

/-- VIO whose table can be read performs the commands that it names (40_input_output.md R275). -/
theorem exec_vio_of_commands {ra rx : Reg} {addr : Word} {s : State} {x : State × Option Abort}
    (supervisor : s.ps = 0#4) (h : s.Readable (s.direct addr rx) 2)
    (commands : vectorCommands (s.wordAt (s.direct addr rx)) (s.reg ra) (s.wordAt (s.direct addr rx + 1))
      (s.direct addr rx + 2) (List.range' 0 16) (s.advance 2) = x) :
    exec (.vio ra addr rx) s = .next (afterWrites x id) := by
  have table : (Operand.direct addr rx).double s =
      s.wordAt (s.direct addr rx) ++ s.wordAt (s.direct addr rx + 1) := rfl
  have operand : (Operand.direct addr rx).Readable s 2 := ⟨trivial, by rintro _ ⟨⟩; exact h⟩
  refine (if_pos supervisor).trans ((on_directDouble operand 2 _).trans ?_)
  rw [← commands, runVector, table, Word.first_of_two, Word.second_of_two, List.range_eq_range']
  rfl

end Sys2Proof.Claims

open Sys2Proof Sys2Proof.Machine Sys2Proof.Claims

/-- Settles O60: by induction on the run, each command that VIO performs is the one that the run names. -/
theorem vectoredCommandResult : Obligations.VectoredCommandResult := by
  unfold Obligations.VectoredCommandResult
  intro ra addr rx s t supervisor readable
  constructor
  · intro run
    obtain ⟨commands, cfg, regs, counter, env⟩ := run.commands
    exact ⟨exec_vio_of_commands supervisor readable commands, regs, counter, cfg, env⟩
  · intro k ref stops
    obtain ⟨commands, cfg, regs, counter, env⟩ := stops.commands
    have counter' : t.ic = s.ic + 2 := counter
    exact ⟨counter' ▸ exec_vio_of_commands supervisor readable commands, regs, cfg, env⟩
end

section
/-! SUPPORT. The bits of a word that the bit instructions set, clear and test, bit 0 being the most significant one
(00_scope.md R13; 41_bit.md R290 to R303), and a single word stored. -/

namespace Sys2Proof.Claims

open Sys2Proof.Machine

/-! ### The bits of a word -/

/-- The mask of bit `n` has that bit only (00_scope.md R13). -/
theorem getMsbD_bitMask (n k : Nat) (hk : k < 16) : (bitMask n).getMsbD k = decide (k = n) := by
  rw [bitMask, BitVec.getMsbD_ushiftRight, show (0x8000#16) = BitVec.twoPow 16 15 from rfl, BitVec.getMsbD_twoPow,
    Bool.eq_iff_iff]
  simp only [Bool.and_eq_true, Bool.not_eq_true', decide_eq_true_eq, decide_eq_false_iff_not]
  omega

theorem getMsbD_withBit (v : Word) (n : Nibble) {k : Nat} (hk : k < 16) :
    (withBit v n).getMsbD k = if k = n.toNat then true else v.getMsbD k := by
  rw [withBit, BitVec.getMsbD_or, getMsbD_bitMask _ _ hk]
  by_cases here : k = n.toNat <;> simp [here]

theorem getMsbD_withoutBit (v : Word) (n : Nibble) {k : Nat} (hk : k < 16) :
    (withoutBit v n).getMsbD k = if k = n.toNat then false else v.getMsbD k := by
  rw [withoutBit, BitVec.getMsbD_and, BitVec.getMsbD_not, getMsbD_bitMask _ _ hk]
  by_cases here : k = n.toNat <;> simp [here, hk]

/-- CS from bit `n` of a word: zero if the bit is clear; if it is set, negative for bit 0, the sign of the word masked,
and else positive (41_bit.md R290). -/
theorem csBit_eq (v : Word) (n : Nibble) :
    csBit v n = if v.getMsbD n.toNat = false then 0b0010#4 else if n = 0 then 0b0001#4 else 0b0100#4 := by
  have masked : v &&& bitMask n.toNat = 0 ↔ v.getMsbD n.toNat = false := by
    rw [← Bool.not_eq_true, ← and_bitMask_ne_zero_iff v n.isLt, not_not]
  unfold csBit csSign
  by_cases clear : v.getMsbD n.toNat = false
  · rw [if_pos (masked.2 clear), if_pos clear]
  · rw [if_neg (mt masked.1 clear), if_neg clear]
    have sign : (v &&& bitMask n.toNat).msb = true ↔ n = 0 := by
      rw [BitVec.msb_eq_getMsbD_zero, BitVec.getMsbD_and, getMsbD_bitMask _ _ (by omega)]
      by_cases first : n = 0
      · subst first; simpa using clear
      · have : 0 ≠ n.toNat := fun h => first (BitVec.eq_of_toNat_eq h.symm)
        simpa [this] using first
    by_cases first : n = 0
    · rw [if_pos (sign.2 first), if_pos first]
    · rw [if_neg (mt sign.1 first), if_neg first]

/-! ### What the bit instructions leave -/

/-- One word stored at an address that can be written, the last action of an instruction. -/
theorem Leaves.storeWord {s t : State} {ic : Word} {regs : Reg → Word} {cs : Nibble} {requests la : Word}
    (h : Leaves s t ic regs cs requests []) (hw : t.Writable la 1) (w : Word) :
    Leaves s (t.store la [w]) ic regs cs requests [(t.target la, w)] :=
  (h.store (ws := [w]) hw).storing (by simp)

/-- The instructions that change a bit of a register write the register with that bit set or cleared. -/
theorem RegisterBitForm.exec_eq {s : State} {i : Instr} {rb : Reg} {n : Nibble} {set : Bool}
    (h : RegisterBitForm s i rb n set) :
    exec i s = .next ((s.advance 1).setReg rb (if set then withBit (s.reg rb) n else withoutBit (s.reg rb) n)) := by
  cases h <;> rfl

/-- TSB, its word readable and writable, stores it with the bit set and tests the word read (41_bit.md R300). -/
theorem exec_tsb_of_writable {s : State} {addr : Word} {rx : Reg} (hr : s.Readable (s.direct addr rx) 1)
    (hw : s.Writable (s.direct addr rx) 1) (n : Nibble) :
    exec (.tsb n addr rx) s = .next (testBit n (s.wordAt (s.direct addr rx)) ((s.advance 2).storeAll
      [(s.target (s.direct addr rx), s.wordAt (s.direct addr rx) ||| bitMask n.toNat)])) := by
  have allowed := State.writable_consecutive (s := s.advance 2)
    (ws := [s.wordAt (s.direct addr rx) ||| bitMask n.toNat]) hw
  exact (exec_tsb_of_readable hr n).trans (congrArg _ (State.writeThen_of_allowed hw.1 allowed))

end Sys2Proof.Claims

open Sys2Proof Sys2Proof.Machine Sys2Proof.Claims

/-- Settles O29: past the read, each of these instructions is one store at the derived address. -/
theorem modifyWordResult : Obligations.ModifyWordResult := by
  unfold Obligations.ModifyWordResult
  intro s i q f form readable writable
  obtain ⟨da, address, -, hexec⟩ := form.exec_eq readable
  exact ⟨da, address, _, hexec, (leaves_advance s 2).storeWord (writable.2 da address) _⟩

/-- Settles O33: a register bit is set or cleared in a register write, CS is that of the bit masked, and TSB does both
to the word it has read. -/
theorem bitResult : Obligations.BitResult := by
  unfold Obligations.BitResult
  refine ⟨fun s i rb n set form => ?register, fun s i n len q form readable => ?test,
    fun s n addr rx readable writable => ?testAndSet⟩
  case register =>
    refine ⟨_, fun k hk => ?_, _, form.exec_eq, (leaves_advance s 1).setReg rb _⟩
    cases set with
    | true => exact getMsbD_withBit _ _ hk
    | false => exact getMsbD_withoutBit _ _ hk
  case test =>
    exact ⟨_, form.exec_eq readable,
      ((leaves_advance s len).setCs _).congr rfl (fun _ => rfl) (csBit_eq (q.word s) n) rfl⟩
  case testAndSet =>
    exact ⟨_, exec_tsb_of_writable readable writable n,
      (((leaves_advance s 2).storeAll _).setCs _).congr rfl (fun _ => rfl) (csBit_eq _ n) rfl⟩
end

section
/-! SUPPORT. The shifts of a word or a pair as arithmetic (42_shift.md R310): a multiple or a quotient of the value by a
power of two, cut to the width, and the overflow of an arithmetic left shift as the range of the exact multiple
(R321); and what the shift instructions leave. -/

namespace Sys2Proof.Claims

open Sys2Proof.Machine

/-! ### Shifts by a number of positions -/

section Values

variable {w : Nat} (v : BitVec w)

theorem shiftLeft_eq_ofNat (n : Nat) : shiftLeft v n = BitVec.ofNat w (v.toNat * 2 ^ n) := by
  apply BitVec.eq_of_toNat_eq
  rw [shiftLeft, BitVec.toNat_shiftLeft, BitVec.toNat_ofNat, Nat.shiftLeft_eq]

/-- The low-order bits of the multiple are the same for the signed and the unsigned value. -/
theorem shiftLeft_eq_ofInt (n : Nat) : shiftLeft v n = BitVec.ofInt w (v.toInt * twoPow n) := by
  rw [shiftLeft_eq_ofNat, BitVec.ofNat_mul, BitVec.ofInt_mul, BitVec.ofInt_toInt, BitVec.ofNat_toNat,
    BitVec.setWidth_eq, twoPow, BitVec.ofInt_natCast]
  rfl

theorem shiftRight_eq_ofNat (n : Nat) : shiftRight v n = BitVec.ofNat w (v.toNat / 2 ^ n) := by
  rw [← Nat.shiftRight_eq_div_pow, ← BitVec.toNat_ushiftRight, BitVec.ofNat_toNat, BitVec.setWidth_eq, shiftRight]

theorem shiftRight_eq_ofInt (n : Nat) : shiftRight v n = BitVec.ofInt w (v.toNat / twoPow n) :=
  (shiftRight_eq_ofNat v n).trans (BitVec.ofInt_natCast w _).symm

theorem shiftArith_eq_ofInt (n : Nat) : shiftArith v n = BitVec.ofInt w (Int.fdiv v.toInt (twoPow n)) := by
  rw [← shiftRight_eq_fdiv, shiftArith, BitVec.sshiftRight_eq]
  rfl

/-- A turn puts the bits that leave at the sign end, the multiple beyond the width, at the low-order end. -/
theorem rotateLeft_eq_ofNat {n : Nat} (hn : n ≤ w) :
    rotateLeft v n = BitVec.ofNat w (v.toNat * 2 ^ n + v.toNat * 2 ^ n / 2 ^ w) := by
  obtain rfl | hlt := hn.eq_or_lt
  · rw [Nat.mul_div_cancel _ (Nat.two_pow_pos n), rotateLeft, ← BitVec.rotateLeft_mod_eq_rotateLeft, Nat.mod_self]
    apply BitVec.eq_of_toNat_eq
    simp [BitVec.rotateLeft_def, Nat.shiftRight_eq_div_pow, Nat.div_eq_of_lt v.isLt, Nat.mod_eq_of_lt v.isLt]
  · have width : 2 ^ w = 2 ^ (w - n) * 2 ^ n := by rw [← pow_add, Nat.sub_add_cancel hn]
    have carried : v.toNat * 2 ^ n / 2 ^ w = v.toNat / 2 ^ (w - n) := by
      rw [width, Nat.mul_div_mul_right _ _ (Nat.two_pow_pos n)]
    have disjoint : shiftLeft v n &&& shiftRight v (w - n) = 0#w := by
      ext k hk
      simp only [shiftLeft, shiftRight, BitVec.getElem_and, BitVec.getElem_shiftLeft, BitVec.getElem_ushiftRight,
        BitVec.getElem_zero]
      by_cases low : k < n
      · simp [low]
      · simp [BitVec.getLsbD_of_ge v (w - n + k) (by omega)]
    calc rotateLeft v n = shiftLeft v n ||| shiftRight v (w - n) := by
          rw [rotateLeft, BitVec.rotateLeft_def, Nat.mod_eq_of_lt hlt, shiftLeft, shiftRight]
      _ = shiftLeft v n + shiftRight v (w - n) := (BitVec.add_eq_or_of_and_eq_zero _ _ disjoint).symm
      _ = _ := by rw [shiftLeft_eq_ofNat, shiftRight_eq_ofNat, carried, BitVec.ofNat_add]

end Values

/-! ### A sign that changes in a left shift -/

theorem outOfRange_eq_false_iff (w : Nat) (x : Int) :
    outOfRange w x = false ↔ -twoPow (w - 1) ≤ x ∧ x < twoPow (w - 1) := by
  unfold outOfRange twoPow
  rw [Bool.or_eq_false_iff, decide_eq_false_iff_not, decide_eq_false_iff_not, not_lt, not_le]

theorem outOfRange_two_mul {w : Nat} {x : Int} (h : outOfRange w x = true) : outOfRange w (2 * x) = true := by
  have pos := twoPow_pos (w - 1)
  rw [← Bool.not_eq_false, outOfRange_eq_false_iff] at h ⊢
  omega

/-- A left shift by one position changes the sign exactly where the double is out of range. -/
theorem msb_shiftLeft_one {w : Nat} (y : BitVec w) : ((shiftLeft y 1).msb != y.msb) = outOfRange w (2 * y.toInt) := by
  have sum : shiftLeft y 1 = y + y := by
    rw [shiftLeft_eq_ofInt, show y.toInt * twoPow 1 = y.toInt + y.toInt from mul_two _, BitVec.ofInt_add,
      BitVec.ofInt_toInt]
  calc ((shiftLeft y 1).msb != y.msb) = y.saddOverflow y := by
        rw [BitVec.saddOverflow_eq, sum, beq_self_eq_true, Bool.true_and, bne]
    _ = outOfRange w (2 * y.toInt) := by
        rw [BitVec.saddOverflow, Bool.or_comm, ← two_mul, outOfRange]
        simp

theorem signChanges_succ {w : Nat} (v : BitVec w) (n : Nat) :
    signChanges v (n + 1) = (signChanges v n || (shiftLeft v (n + 1)).msb != v.msb) := by
  rw [signChanges, List.range_succ, List.any_append]
  simp [signChanges, shiftLeft]

/-- The sign changes at some step of a left shift exactly where the exact multiple is out of range: once it is, it
stays so, and up to there each step doubles the value (42_shift.md R321). -/
theorem signChanges_eq {w : Nat} (hw : 0 < w) (v : BitVec w) (n : Nat) :
    signChanges v n = outOfRange w (v.toInt * twoPow n) := by
  induction n with
  | zero =>
    symm
    rw [signChanges, List.range_zero, List.any_nil, outOfRange_eq_false_iff, show twoPow 0 = 1 from rfl, mul_one,
      twoPow_eq]
    exact ⟨BitVec.le_toInt v, BitVec.toInt_lt⟩
  | succ n ih =>
    have doubled : v.toInt * twoPow (n + 1) = 2 * (v.toInt * twoPow n) := by rw [twoPow_succ]; ring
    rw [signChanges_succ, ih, doubled]
    cases range : outOfRange w (v.toInt * twoPow n) with
    | true => rw [Bool.true_or, outOfRange_two_mul range]
    | false =>
      obtain ⟨lo, hi⟩ := (outOfRange_eq_false_iff w _).1 range
      rw [twoPow_eq] at lo hi
      have value : (shiftLeft v n).toInt = v.toInt * twoPow n := by
        rw [shiftLeft_eq_ofInt, BitVec.toInt_ofInt_eq_self hw lo hi]
      have sign : (shiftLeft v n).msb = v.msb := by
        rw [BitVec.msb_eq_toInt, BitVec.msb_eq_toInt, value, decide_eq_decide]
        exact ⟨fun h => neg_of_mul_neg_left h (twoPow_pos n).le, fun h => mul_neg_of_neg_of_pos h (twoPow_pos n)⟩
      have step : shiftLeft v (n + 1) = shiftLeft (shiftLeft v n) 1 := BitVec.shiftLeft_add v n 1
      rw [Bool.false_or, step, ← sign, msb_shiftLeft_one, value]

theorem signChanges_word (v : Word) (n : Nat) : signChanges v n = exceedsWord (v.toInt * twoPow n) :=
  (signChanges_eq (by decide) v n).trans (outOfRange_word _)

theorem signChanges_double (v : Double) (n : Nat) : signChanges v n = exceedsDouble (v.toInt * twoPow n) :=
  (signChanges_eq (by decide) v n).trans (outOfRange_double _)

/-! ### A shift result written -/

theorem leaves_putShifted (s : State) (r : Reg) (v : Word) :
    Leaves s (putShifted r v (s.advance 1)) (s.ic + 1) (putWord s r v) (condition v.toInt) 0 [] :=
  (((leaves_advance s 1).setReg r v).setCs _).congr rfl (fun _ => rfl) (csSign_eq v) rfl

theorem leaves_putShiftedPair (s : State) (r : Reg) (v : Double) :
    Leaves s (putShiftedPair r v (s.advance 1)) (s.ic + 1) (putPair s r v) (condition v.toInt) 0 [] :=
  (((leaves_advance s 1).setPair r v).setCs _).congr rfl (fun _ => rfl) (csSign_eq v) rfl

/-! ### The count in the instruction -/

theorem completes_putShifted {i : Instr} {s : State} {r : Reg} {v x : Word}
    (hexec : exec i s = .next (putShifted r v (s.advance 1))) (hv : v = x) :
    Completes i s (s.ic + 1) (putWord s r x) (condition x.toInt) 0 [] :=
  ⟨_, hexec, hv ▸ leaves_putShifted s r v⟩

theorem completes_putShiftedPair {i : Instr} {s : State} {r : Reg} {v x : Double}
    (hexec : exec i s = .next (putShiftedPair r v (s.advance 1))) (hv : v = x) :
    Completes i s (s.ic + 1) (putPair s r x) (condition x.toInt) 0 [] :=
  ⟨_, hexec, hv ▸ leaves_putShiftedPair s r v⟩

theorem countOk_iff (n : Nat) : countOk n = true ↔ 1 ≤ n ∧ n ≤ 16 := by
  rw [countOk, Bool.and_eq_true, decide_eq_true_eq, decide_eq_true_eq]

section CountInInstruction

variable {i : Instr} {op : Byte} {rb : Reg} {n : Nat}

theorem ShiftForm.count_bounds {f : Word → Nat → Word} (h : ShiftForm i op rb n f) (wf : wellFormed i = true) :
    1 ≤ n ∧ n ≤ 16 := by
  cases h <;> exact (countOk_iff n).1 wf

theorem ShiftPairForm.count_bounds {f : Double → Nat → Double} (h : ShiftPairForm i op rb n f)
    (wf : wellFormed i = true) : 1 ≤ n ∧ n ≤ 16 := by
  cases h <;> exact (countOk_iff n).1 wf

/-- Each form writes one register, with its shift of that register. -/
theorem ShiftForm.completes {f : Word → Nat → Word} (h : ShiftForm i op rb n f) (hn : n ≤ 16) (s : State) :
    Completes i s (s.ic + 1) (putWord s rb (f (s.reg rb) n)) (condition (f (s.reg rb) n).toInt) 0 [] := by
  cases h with
  | sll => exact completes_putShifted rfl (shiftLeft_eq_ofNat (s.reg rb) n)
  | srl => exact completes_putShifted rfl (shiftRight_eq_ofNat (s.reg rb) n)
  | sra => exact completes_putShifted rfl (shiftArith_eq_ofInt (s.reg rb) n)
  | slc => exact completes_putShifted rfl (rotateLeft_eq_ofNat (s.reg rb) hn)

/-- Each form writes one pair, with its shift of that pair. -/
theorem ShiftPairForm.completes {f : Double → Nat → Double} (h : ShiftPairForm i op rb n f) (hn : n ≤ 16) (s : State) :
    Completes i s (s.ic + 1) (putPair s rb (f (s.pair rb) n)) (condition (f (s.pair rb) n).toInt) 0 [] := by
  cases h with
  | dsll => exact completes_putShiftedPair rfl (shiftLeft_eq_ofNat (s.pair rb) n)
  | dsrl => exact completes_putShiftedPair rfl (shiftRight_eq_ofNat (s.pair rb) n)
  | dsra => exact completes_putShiftedPair rfl (shiftArith_eq_ofInt (s.pair rb) n)
  | dslc => exact completes_putShiftedPair rfl (rotateLeft_eq_ofNat (s.pair rb) (hn.trans (by decide)))

end CountInInstruction

/-! ### The count in a register -/

/-- What a shift of `v` by the count in `rb` leaves, for each answer of `shiftByCount` (42_shift.md R326); `put` gives
the registers that a result is written to. A register and a pair differ in no more than `v` and `put`. -/
structure CountedShift {w : Nat} (i : Instr) (s : State) (rb : Reg) (v : BitVec w) (put : BitVec w → Reg → Word)
    (left right : BitVec w → Nat → BitVec w) (overflows : BitVec w → Nat → Bool) : Prop where
  /-- The count out of range: nothing but the request. -/
  refused : shiftByCount left right overflows v (s.reg rb) = none →
    Completes i s (s.ic + 1) s.reg s.cs (request true 4) []
  /-- The count in range: the result, CS from it and the request of its overflow. -/
  shifted : ∀ x o, shiftByCount left right overflows v (s.reg rb) = some (x, o) →
    Completes i s (s.ic + 1) (put x) (condition x.toInt) (request o 4) []

/-- The overflow requested, nothing else. -/
theorem leaves_refusedShift (s : State) :
    Leaves s ((s.advance 1).requestIf true 4) (s.ic + 1) s.reg s.cs (request true 4) [] :=
  ((leaves_advance s 1).requestIf true 4).congr rfl (fun _ => rfl) rfl (request_zero_or ..)

section Operands

variable {i : Instr} {ra rb : Reg} {s : State}

theorem countedShift_of_register {left right : Word → Nat → Word} {overflows : Word → Nat → Bool}
    (hexec : exec i s = .next (shiftRegister left right overflows ra rb (s.advance 1))) :
    CountedShift i s rb (s.reg ra) (putWord s ra) left right overflows where
  refused h := by
    rw [shiftRegister, State.reg_advance, State.reg_advance, h] at hexec
    exact ⟨_, hexec, leaves_refusedShift s⟩
  shifted x o h := by
    rw [shiftRegister, State.reg_advance, State.reg_advance, h] at hexec
    exact ⟨_, hexec, ((leaves_putShifted s ra x).requestIf o 4).congr rfl (fun _ => rfl) rfl (request_zero_or ..)⟩

theorem countedShift_of_pair {left right : Double → Nat → Double} {overflows : Double → Nat → Bool}
    (hexec : exec i s = .next (shiftPair left right overflows ra rb (s.advance 1))) :
    CountedShift i s rb (s.pair ra) (putPair s ra) left right overflows where
  refused h := by
    rw [shiftPair, State.pair_advance, State.reg_advance, h] at hexec
    exact ⟨_, hexec, leaves_refusedShift s⟩
  shifted x o h := by
    rw [shiftPair, State.pair_advance, State.reg_advance, h] at hexec
    exact ⟨_, hexec, ((leaves_putShiftedPair s ra x).requestIf o 4).congr rfl (fun _ => rfl) rfl (request_zero_or ..)⟩

end Operands

section ByCount

variable {w : Nat} {i : Instr} {s : State} {rb : Reg} {v x : BitVec w} {put : BitVec w → Reg → Word}
  {left right : BitVec w → Nat → BitVec w} {overflows : BitVec w → Nat → Bool} {o : Bool}

theorem CountedShift.of_beyond (h : CountedShift i s rb v put left right overflows)
    (beyond : w < (s.reg rb).toInt.natAbs) : Completes i s (s.ic + 1) s.reg s.cs (request true 4) [] :=
  h.refused (if_pos beyond)

theorem CountedShift.of_positive (h : CountedShift i s rb v put left right overflows) (pos : 0 < (s.reg rb).toInt)
    (le : (s.reg rb).toInt ≤ w) (value : left v (s.reg rb).toInt.toNat = x)
    (overflow : overflows v (s.reg rb).toInt.toNat = o) :
    Completes i s (s.ic + 1) (put x) (condition x.toInt) (request o 4) [] :=
  h.shifted x o (by rw [shiftByCount, if_neg (by omega), if_pos pos, value, overflow])

theorem CountedShift.of_nonpositive (h : CountedShift i s rb v put left right overflows) (le : (s.reg rb).toInt ≤ 0)
    (ge : -w ≤ (s.reg rb).toInt) (value : right v (s.reg rb).toInt.natAbs = x) :
    Completes i s (s.ic + 1) (put x) (condition x.toInt) (request false 4) [] :=
  h.shifted x false (by rw [shiftByCount, if_neg (by omega), if_neg (by omega), value])

end ByCount

/-! ### The six shifts by a count in a register -/

section Instructions

variable (ra rb : Reg) (s : State)

theorem countedShift_slr :
    CountedShift (.slr ra rb) s rb (s.reg ra) (putWord s ra) shiftLeft shiftRight neverChanges :=
  countedShift_of_register rfl

theorem countedShift_sar :
    CountedShift (.sar ra rb) s rb (s.reg ra) (putWord s ra) shiftLeft shiftArith signChanges :=
  countedShift_of_register rfl

theorem countedShift_scr :
    CountedShift (.scr ra rb) s rb (s.reg ra) (putWord s ra) rotateLeft rotateRight neverChanges :=
  countedShift_of_register rfl

theorem countedShift_dslr :
    CountedShift (.dslr ra rb) s rb (s.pair ra) (putPair s ra) shiftLeft shiftRight neverChanges :=
  countedShift_of_pair rfl

theorem countedShift_dsar :
    CountedShift (.dsar ra rb) s rb (s.pair ra) (putPair s ra) shiftLeft shiftArith signChanges :=
  countedShift_of_pair rfl

theorem countedShift_dscr :
    CountedShift (.dscr ra rb) s rb (s.pair ra) (putPair s ra) rotateLeft rotateRight neverChanges :=
  countedShift_of_pair rfl

end Instructions

end Sys2Proof.Claims

open Sys2Proof Sys2Proof.Machine Sys2Proof.Claims

/-- Settles O34: each form writes its shift of the register or pair, which is a multiple or a quotient by a power of
two, or a multiple with the bits beyond the width put back. -/
theorem shiftResult : Obligations.ShiftResult := by
  unfold Obligations.ShiftResult
  constructor
  · intro i op rb n f s form wf
    obtain ⟨lo, hi⟩ := form.count_bounds wf
    exact ⟨by cases form <;> rfl, lo, hi, form.completes hi s⟩
  · intro i op rb n f s form wf
    obtain ⟨lo, hi⟩ := form.count_bounds wf
    exact ⟨by cases form <;> rfl, lo, hi, form.completes hi s⟩

/-- Settles O35: the sign and size of the count choose between no shift, a left and a right one, and the sign changes
in an arithmetic left shift exactly where the exact multiple is out of range. -/
theorem countedShiftResult : Obligations.CountedShiftResult := by
  unfold Obligations.CountedShiftResult
  intro ra rb s c v d word pair
  have slr := countedShift_slr ra rb s
  have sar := countedShift_sar ra rb s
  have scr := countedShift_scr ra rb s
  have dslr := countedShift_dslr ra rb s
  have dsar := countedShift_dsar ra rb s
  have dscr := countedShift_dscr ra rb s
  refine ⟨fun beyond => ?wordBeyond, fun beyond => ?pairBeyond, fun pos le => ?wordLeft, fun le ge => ?wordRight,
    fun pos le => ?pairLeft, fun le ge => ?pairRight⟩
  case wordBeyond =>
    simp only [List.forall_mem_cons]
    exact ⟨slr.of_beyond beyond, sar.of_beyond beyond, scr.of_beyond beyond, List.forall_mem_nil _⟩
  case pairBeyond =>
    simp only [List.forall_mem_cons]
    exact ⟨dslr.of_beyond beyond, dsar.of_beyond beyond, dscr.of_beyond beyond, List.forall_mem_nil _⟩
  case wordLeft =>
    exact ⟨slr.of_positive pos le (shiftLeft_eq_ofInt v _) rfl,
      sar.of_positive pos le (shiftLeft_eq_ofInt v _) (signChanges_word v _), scr.of_positive pos le rfl rfl⟩
  case wordRight =>
    exact ⟨slr.of_nonpositive le ge (shiftRight_eq_ofInt v _), sar.of_nonpositive le ge (shiftArith_eq_ofInt v _),
      scr.of_nonpositive le ge rfl⟩
  case pairLeft =>
    exact ⟨dslr.of_positive pos le (shiftLeft_eq_ofInt d _) rfl,
      dsar.of_positive pos le (shiftLeft_eq_ofInt d _) (signChanges_double d _), dscr.of_positive pos le rfl rfl⟩
  case pairRight =>
    exact ⟨dslr.of_nonpositive le ge (shiftRight_eq_ofInt d _), dsar.of_nonpositive le ge (shiftArith_eq_ofInt d _),
      dscr.of_nonpositive le ge rfl⟩
end

section
/-! SUPPORT. What the jumps, the branches and the subroutine instructions leave (43_jump_branch.md R340 to R356): the
bits of CS that a branch tests, and IC set under a condition. -/

namespace Sys2Proof.Machine

/-! ### The bits of CS -/

/-- Two nibbles share a bit where both have it set. -/
theorem Nibble.and_bne_zero (m c : Nibble) : (m &&& c != 0#4) =
    (m.getMsbD 0 && c.getMsbD 0 || m.getMsbD 1 && c.getMsbD 1 || m.getMsbD 2 && c.getMsbD 2 ||
      m.getMsbD 3 && c.getMsbD 3) := by
  revert m c; decide

/-- CS is the first four bits of the status word (10_state.md R57). -/
theorem State.getMsbD_cs (s : State) {k : Nat} (hk : k < 4) : s.cs.getMsbD k = s.sw.getMsbD k := by
  have shifted : 12 + (4 - 1 - k) = 16 - 1 - k := by omega
  have inside : 4 - 1 - k < 4 := by omega
  have before : k < 16 := by omega
  rw [State.cs, BitVec.getMsbD, BitVec.getLsbD_extractLsb', shifted, BitVec.getMsbD]
  simp only [hk, before, inside, decide_true, Bool.true_and]

/-- Each single bit of CS that a mask has is tested (43_jump_branch.md R340). -/
theorem State.mask_and_cs_bne_zero (s : State) (m : Nibble) : (m &&& s.cs != 0#4) =
    (m.getMsbD 0 && s.sw.getMsbD 0 || m.getMsbD 1 && s.sw.getMsbD 1 || m.getMsbD 2 && s.sw.getMsbD 2 ||
      m.getMsbD 3 && s.sw.getMsbD 3) := by
  rw [Nibble.and_bne_zero, s.getMsbD_cs (by decide), s.getMsbD_cs (by decide), s.getMsbD_cs (by decide),
    s.getMsbD_cs (by decide)]

/-- The condition of JC and JCI (43_jump_branch.md R341). -/
theorem State.jumpTaken_iff (s : State) (c : Nibble) :
    s.jumpTaken c = true ↔ c = 7#4 ∨ c = 15#4 ∨ c &&& s.cs ≠ 0#4 := by
  rw [State.jumpTaken, Bool.or_eq_true, Bool.or_eq_true, beq_iff_eq, beq_iff_eq, bne_iff_ne, or_assoc]

end Sys2Proof.Machine

namespace Sys2Proof.Claims

open Sys2Proof.Machine

/-! ### IC set under a condition -/

/-- IC set if the condition holds, else left where it was. -/
theorem Leaves.jumpIf {s t : State} {ic : Word} {regs : Reg → Word} {cs : Nibble} {requests : Word}
    {stored : List (Nat × Word)} (h : Leaves s t ic regs cs requests stored) (taken : Bool) (target : Word) :
    Leaves s (t.jumpIf taken target) (if taken then target else ic) regs cs requests stored := by
  cases taken with
  | false => exact h
  | true => exact h.jumpTo target

/-- A jump of two words, past the instruction, under the condition of JC and JCI. -/
theorem leaves_jumpIf_jumpTaken (s : State) (c : Nibble) (target : Word) :
    Leaves s ((s.advance 2).jumpIf (s.jumpTaken c) target)
      (if c = 7#4 ∨ c = 15#4 ∨ c &&& s.cs ≠ 0#4 then target else s.ic + 2) s.reg s.cs 0 [] :=
  ((leaves_advance s 2).jumpIf (s.jumpTaken c) target).congr (if_congr (s.jumpTaken_iff c) rfl rfl) (fun _ => rfl) rfl
    rfl

/-! ### The relative branches -/

/-- A branch whose mask tests the bits of CS that `taken` names jumps where `taken` holds. -/
theorem branchOn_eq {s : State} {mask : Nibble} {taken : Bool} (h : (mask &&& s.cs != 0#4) = taken) (d : Byte) :
    branchOn s mask d = .next ((s.advance 1).jumpIf taken (s.relative d)) := by
  rw [branchOn, completing, h]

/-- Each relative branch tests the bits of CS that its form names: P, Z and N are bits 1, 2 and 3. -/
theorem BranchForm.exec_eq {s : State} {i : Instr} {op d : Byte} {taken : Bool}
    (h : BranchForm (s.sw.getMsbD 1) (s.sw.getMsbD 2) (s.sw.getMsbD 3) i op d taken) :
    exec i s = .next ((s.advance 1).jumpIf taken (s.relative d)) := by
  cases h with
  | br => rfl
  | bez | blt | ble | bgt | bnz | bge => exact branchOn_eq (by simp [State.mask_and_cs_bne_zero]) d

theorem BranchForm.encode_eq {p z n : Bool} {i : Instr} {op d : Byte} {taken : Bool}
    (h : BranchForm p z n i op d taken) : encode i = [op ++ d] := by
  cases h <;> rfl

/-! ### The subroutine instructions -/

/-- SOJ jumps unless the register counted down to zero (43_jump_branch.md R344). -/
theorem leaves_subtractAndJump (s : State) (ra : Reg) (da : Word) :
    Leaves s (subtractAndJump ra da (s.advance 2)) (if s.reg ra = 1#16 then s.ic + 2 else da)
      (putWord s ra (s.reg ra - 1)) (condition (s.reg ra - 1).toInt) 0 [] := by
  refine ((((leaves_advance s 2).setReg ra _).setCs _).jumpIf _ da).congr ?counter (fun _ => rfl) (csSign_eq _) rfl
  by_cases last : s.reg ra = 1#16
  · rw [if_pos last, State.reg_advance, last]; rfl
  · have running : (s.reg ra - 1 != 0) = true := bne_iff_ne.2 fun zero => last (BitVec.sub_eq_iff_eq_add.1 zero)
    rw [if_neg last, State.reg_advance, running, if_pos rfl]

/-- SJS, the word below the stack writable, stores the return address there (43_jump_branch.md R355). -/
theorem stackAndJump_of_writable {s : State} {ra : Reg} (h : s.Writable (s.reg ra - 1) 1) (da : Word) :
    stackAndJump ra da s =
      ((s.storeAll [(s.target (s.reg ra - 1), s.ic)]).setReg ra (s.reg ra - 1)).jumpTo da :=
  State.writeThen_of_allowed h.1 (State.writable_consecutive (ws := [s.ic]) h)

/-- URS, the top of the stack readable, goes on with the word there (43_jump_branch.md R356). -/
theorem exec_urs_of_readable {s : State} {ra : Reg} (h : s.Readable (s.reg ra) 1) :
    exec (.urs ra) s = .next (((s.advance 1).setReg ra (s.reg ra + 1)).jumpTo (s.wordAt (s.reg ra))) :=
  onOperand_of_ok (operand := fun n => n.read (n.reg ra)) (State.read_of_readable (s := s.advance 1) h (by decide)) _

end Sys2Proof.Claims

open Sys2Proof Sys2Proof.Machine Sys2Proof.Claims

/-- Settles O36: a branch and a jump move IC past the instruction and set it under their condition, nothing else. -/
theorem branchResult : Obligations.BranchResult := by
  unfold Obligations.BranchResult
  refine ⟨fun i op d taken s form => ?branch, ?jump⟩
  case branch => exact ⟨form.encode_eq, _, form.exec_eq, (leaves_advance s 1).jumpIf taken _⟩
  case jump =>
    intro c addr rx s taken
    exact ⟨rfl, rfl, ⟨_, rfl, leaves_jumpIf_jumpTaken s c _⟩,
      fun readable => ⟨_, on_indirect readable 2 _, leaves_jumpIf_jumpTaken s c _⟩⟩

/-- Settles O37: each instruction is one register write and one jump, to an address derived before that write; SJS has
the store of the return address before them. -/
theorem subroutineResult : Obligations.SubroutineResult := by
  unfold Obligations.SubroutineResult
  refine fun ra addr rx s => ⟨?js, ?soj, fun writable => ?sjs, fun readable => ?urs⟩
  case js => exact ⟨_, rfl, ((leaves_advance s 2).setReg ra _).jumpTo _⟩
  case soj => exact ⟨_, rfl, leaves_subtractAndJump s ra _⟩
  case sjs =>
    have pushed := stackAndJump_of_writable (s := s.advance 2) (ra := ra) writable (s.direct addr rx)
    exact ⟨_, congrArg Host.Outcome.next pushed, (((leaves_advance s 2).storeAll _).setReg ra _).jumpTo _⟩
  case urs => exact ⟨_, exec_urs_of_readable readable, ((leaves_advance s 1).setReg ra _).jumpTo _⟩
end

section
/-! SUPPORT. The return to a saved context: three words read, then mask, status word and counter loaded
(43_jump_branch.md R353, R354; 60_exceptions.md R608, R630). -/

namespace Sys2Proof.Claims

open Sys2Proof.Machine

/-- The context that three words of memory hold. -/
def contextAt (s : State) (da : Word) : Context := ⟨s.wordAt da, s.wordAt (da + 1), s.wordAt (da + 2)⟩

theorem State.readContext_of_readable {s : State} {da : Word} (h : s.Readable da 3) :
    s.readContext da = (.ok (contextAt s da), s) := by
  have third : da + 2 = da + 1 + 1 := by rw [BitVec.add_assoc]; rfl
  simp only [State.readContext, contextAt, third, Reading.andThen, State.read_of_readable h (by decide),
    State.read_of_readable h.tail (by decide), State.read_of_readable h.tail.tail (by decide)]

/-- LST and LSTI in the supervisor state, their three words readable, load the context at the derived address. -/
theorem exec_lst_of_readable {s : State} {addr : Word} {rx : Reg} (supervisor : s.ps = 0#4)
    (h : (Operand.direct addr rx).Readable s 3) :
    exec (.lst addr rx) s = .next (returnTo (contextAt s (s.direct addr rx)) (s.advance 2)) :=
  (if_pos supervisor).trans
    (onOperand_of_ok (operand := fun n => n.readContext (n.direct addr rx))
      (State.readContext_of_readable (s := s.advance 2) (h.2 _ rfl)) _)

theorem exec_lsti_of_readable {s : State} {addr : Word} {rx : Reg} (supervisor : s.ps = 0#4)
    (h : (Operand.indirect addr rx).Readable s 3) :
    exec (.lsti addr rx) s = .next (returnTo (contextAt s (s.wordAt (s.direct addr rx))) (s.advance 2)) := by
  have pointer : (s.advance 2).indirect addr rx = (.ok (s.wordAt (s.direct addr rx)), s.advance 2) :=
    indirect_ok (s := s.advance 2) h.1
  refine (if_pos supervisor).trans (onOperand_of_ok (operand := fun n => (n.indirect addr rx).andThen _) ?_ _)
  rw [pointer]
  exact State.readContext_of_readable (s := s.advance 2) (h.2 _ rfl)

/-- What the return to a context changes, past an instruction: mask, status word with its address state fault, and
counter. -/
theorem returnTo_advance (s : State) (len : Word) (c : Context) :
    let t := returnTo c (s.advance len)
    t.mkr = c.mask ∧ LoadsStatus s t c.status s.pir ∧ t.ic = c.counter ∧
      { t with mkr := s.mkr, sw := s.sw, ft := s.ft, pir := s.pir, ic := s.ic } = s := by
  let masked : State := { s.advance len with mkr := c.mask }
  have loads := loadsStatus masked c.status
  have unchanged := State.loadSw_eq masked c.status
  refine ⟨State.loadSw_mkr masked c.status, ⟨loads.status, loads.fault, loads.request⟩, rfl, ?_⟩
  show { masked.loadSw c.status with mkr := s.mkr, sw := s.sw, ft := s.ft, pir := s.pir, ic := s.ic } = s
  rw [unchanged]; rfl

end Sys2Proof.Claims

open Sys2Proof Sys2Proof.Machine Sys2Proof.Claims

/-- Settles O20: the two forms differ in the address of the context only, and a context is loaded by one operation. -/
theorem loadStatusReturns : Obligations.LoadStatusReturns := by
  unfold Obligations.LoadStatusReturns
  rintro s i addr rx q (⟨rfl, rfl⟩ | ⟨rfl, rfl⟩) supervisor readable
  · exact ⟨_, _, rfl, exec_lst_of_readable supervisor readable, returnTo_advance s 2 _⟩
  · exact ⟨_, _, rfl, exec_lsti_of_readable supervisor readable, returnTo_advance s 2 _⟩
end

section
/-! SUPPORT. The boundary after a BEX (43_jump_branch.md R348; log 29): nothing but a BEX makes it, and only a BEX, a
reset or a power up changes it within a step and its events. -/

namespace Sys2Proof.Claims

open Sys2Proof.Machine

/-! ### BEX -/

/-- Whether the interrupt sequence can be made does not depend on IC. -/
theorem Enterable.advance {s : State} {n : Nat} {entry : Nibble} (h : Enterable s n entry) (len : Word) :
    Enterable (s.advance len) n entry :=
  ⟨h.quiet, h.service, h.mask, h.status, h.counter, h.linkage, h.store⟩

/-- What the interrupt sequence leaves past an instruction differs from the state before it in the same fields. -/
theorem Entered.of_advance {s t : State} {n : Nat} {entry : Nibble} {len oldCounter : Word}
    (h : Entered (s.advance len) t n entry oldCounter) : Entered s t n entry oldCounter where
  mask := h.mask
  status := ⟨h.status.status, h.status.fault, h.status.request⟩
  counter := h.counter
  disabled := h.disabled
  hold := h.hold
  freeze := h.freeze
  memory := h.memory
  parity := h.parity
  rest := congrArg (fun u : State => { u with ic := s.ic }) h.rest

/-! ### What keeps the boundary mark -/

/-- Every instruction but BEX keeps what its updates, the commands, a jump and a context load keep. -/
theorem Kept.exec_of_not_bex {P : State → Prop} (K : Kept P) (J : KeptByJumps P) (C : KeptByCommands P)
    (load : ∀ {u : State} {c : Context}, P u → P (u.loadContext c)) {s : State} {i : Instr} (hb : ∀ n, i ≠ .bex n)
    (hs : P s) : Ends P (exec i s) := by
  have advance {len : Word} : P (s.advance len) := J.jumpTo hs
  by_cases hp : Privileged i
  · cases hp with
    | xio | vio => exact K.exec_of_commands C rfl advance
    | lst => exact K.privileged advance (K.onRead (K.readContext advance) load)
    | lsti => exact K.privileged advance (K.onPointer advance K.readContext load)
  · exact K.exec_of_jumps J hp hb hs

theorem kept_atExecutive (b : Bool) : Kept fun u => u.atExecutive = b where
  setReg h := h
  setCs h := h
  request h := h
  draw h := h
  awaitBus h := (State.atExecutive_awaitBus _).trans h
  storePhysical _ h := h
  raiseFault h := h
  halt h := h

theorem keptByJumps_atExecutive (b : Bool) : KeptByJumps fun u => u.atExecutive = b where
  jumpTo h := h

@[simp] theorem State.atExecutive_runOutput (s : State) (c : OutCommand) (v : Word) :
    (s.runOutput c v).atExecutive = s.atExecutive := by
  cases c
  case wsw => exact State.loadSw_atExecutive s v
  case co => unfold State.runOutput; dsimp only; split_ifs <;> rfl
  all_goals rfl

@[simp] theorem State.atExecutive_runInput (s : State) (c : InCommand) :
    (s.runInput c).2.atExecutive = s.atExecutive := by
  rw [State.runInput_eq]

theorem keptByCommands_atExecutive (b : Bool) : KeptByCommands fun u => u.atExecutive = b where
  runOutput _ h := (State.atExecutive_runOutput ..).trans h
  runInput h := (State.atExecutive_runInput ..).trans h

theorem State.atExecutive_loadContext (s : State) (c : Context) : (s.loadContext c).atExecutive = s.atExecutive :=
  State.loadSw_atExecutive _ c.status

/-- Every instruction but BEX keeps the mark. -/
theorem atExecutive_of_exec {s t : State} {i : Instr} (hb : ∀ n, i ≠ .bex n) (ht : exec i s = .next t) :
    t.atExecutive = s.atExecutive :=
  (kept_atExecutive _).exec_of_not_bex (keptByJumps_atExecutive _) (keptByCommands_atExecutive _)
    (fun h => (State.atExecutive_loadContext ..).trans h) hb rfl t ht

theorem State.atExecutive_freeze (s : State) (n : Nat) : (s.freeze n).atExecutive = s.atExecutive := by
  rw [State.freeze_eq]

/-- An interrupt taken, its sequence complete or refused, keeps the mark. -/
theorem State.atExecutive_takeInterrupt (s : State) (n : Nat) (entry : Nibble) :
    (s.takeInterrupt n entry).atExecutive = s.atExecutive := by
  have K := kept_atExecutive s.atExecutive
  have sequence : (s.interruptSequence n entry).1.atExecutive = s.atExecutive :=
    K.interruptSequence (fun h => h) (fun h => (State.atExecutive_loadContext ..).trans h) (fun h => h)
      (fun h => (State.atExecutive_freeze ..).trans h) rfl
  exact K.afterWrites sequence id

/-- A fetch keeps the mark, whatever it answers. -/
theorem State.atExecutive_fetch (s : State) : (fetchedState s.fetch).atExecutive = s.atExecutive :=
  (kept_atExecutive _).fetch (keptByJumps_atExecutive _) rfl

theorem State.atExecutive_ioRequest (s : State) (level : IoLevel) (channel : BitVec 7) :
    (s.ioRequest level channel).atExecutive = s.atExecutive := by
  unfold State.ioRequest
  cases level with
  | one => dsimp only; split_ifs <;> rfl
  | two => dsimp only; split_ifs <;> rfl

/-- Every event but a reset or a power up keeps the mark. -/
theorem State.atExecutive_applyEvent (s : State) {e : Event} (hr : e ≠ .reset) (hp : e ≠ .powerUp) :
    (s.applyEvent e).atExecutive = s.atExecutive := by
  cases e
  case reset => exact absurd rfl hr
  case powerUp => exact absurd rfl hp
  case ioInterrupt level channel => exact State.atExecutive_ioRequest s level channel
  case tickA => rw [State.applyEvent, State.tickA]; split_ifs <;> rfl
  case tickB => rw [State.applyEvent, State.tickB]; split_ifs <;> rfl
  case goTick => rw [State.applyEvent, State.tickGo]; split_ifs <;> rfl
  case dma access => rw [State.applyEvent, State.dmaAccess_eq]
  all_goals rfl

/-! ### What makes the boundary -/

/-- An instruction step that ends at such a boundary and did not begin at one executes a BEX. -/
theorem fetch_eq_bex_of_atExecutive {s t : State} (before : s.atExecutive = false) (ht : instructionStep s = .next t)
    (after : t.atExecutive = true) : ∃ n u, s.fetch = .instruction (.bex n) u := by
  have fetched := State.atExecutive_fetch s
  rw [before] at fetched
  unfold instructionStep at ht
  cases hf : s.fetch with
  | aborted u =>
    rw [hf] at fetched ht
    obtain rfl := Host.Outcome.next.inj ht
    exact absurd (after.symm.trans fetched) (by decide)
  | instruction i u =>
    rw [hf] at fetched ht
    by_contra other
    have notBex : ∀ n, i ≠ .bex n := fun n h => other ⟨n, u, h ▸ rfl⟩
    dsimp only at ht
    cases hx : exec i u with
    | next v =>
      rw [hx] at ht
      obtain rfl := Host.Outcome.next.inj ht
      exact absurd (after.symm.trans ((atExecutive_of_exec notBex hx).trans fetched)) (by decide)
    | fault f => exact nomatch f
    | refused r => rw [hx] at ht; exact nomatch ht

/-- A step that ends at such a boundary, unless it is halted, executes a BEX: an interrupt taken makes none. -/
theorem fetch_eq_bex_of_step {s t : State} (running : s.applyEvents.halted = false) (ht : step s = .next t)
    (after : t.atExecutive = true) : ∃ n u, s.applyEvents.beginInstruction.fetch = .instruction (.bex n) u := by
  have instruction (h : s.applyEvents.atExecutive = true ∨ s.applyEvents.recognised = none) :
      ∃ n u, s.applyEvents.beginInstruction.fetch = .instruction (.bex n) u :=
    fetch_eq_bex_of_atExecutive rfl ((step_of_running running h).symm.trans ht) after
  cases held : s.applyEvents.atExecutive with
  | true => exact instruction (.inl held)
  | false =>
    cases due : s.applyEvents.recognised with
    | none => exact instruction (.inr due)
    | some n =>
      rw [step_of_recognised running held due] at ht
      obtain rfl := Host.Outcome.next.inj ht
      rw [State.atExecutive_takeInterrupt, held] at after
      exact absurd after (by decide)

end Sys2Proof.Claims

open Sys2Proof Sys2Proof.Machine Sys2Proof.Claims

/-- Settles O19: BEX is the interrupt sequence past the instruction, then the mark of the boundary; everything but BEX,
a reset and a power up keeps that mark, and an instruction begins by clearing it. -/
theorem branchToExecutive : Obligations.BranchToExecutive := by
  unfold Obligations.BranchToExecutive
  refine ⟨fun s n enterable => ?sequence, fun s running held => step_of_running running (.inl held),
    fun s i t notBex ht => atExecutive_of_exec notBex ht, fun s e hr hp => State.atExecutive_applyEvent s hr hp,
    fun s t running ht after => fetch_eq_bex_of_step running ht after⟩
  obtain ⟨t, hexec, entered⟩ := bex_of_enterable s n (enterable.advance 1)
  exact ⟨t, hexec, entered.of_advance⟩
end

section
/-! SUPPORT. What the loads leave (44_load.md): a word, a pair or a triple with CS from it, and the registers of a
multiple load, each of which holds the word read for it. -/

namespace Sys2Proof.Machine

/-! ### The registers of a multiple load -/

theorem regsTo_eq_regsFromTo (n : Nibble) : regsTo n = regsFromTo 0 n := by
  simp [regsTo, regsFromTo]

/-- Going up from `ra`, modulo 16, a register is met no later than `rb`. -/
theorem mem_regsFromTo {ra rb r : Reg} : r ∈ regsFromTo ra rb ↔ r - ra ≤ rb - ra := by
  simp only [regsFromTo, List.mem_map, List.mem_range]
  constructor
  · rintro ⟨k, hk, rfl⟩
    bv_omega
  · intro h
    refine ⟨(r - ra).toNat, by bv_omega, ?_⟩
    rw [BitVec.ofNat_toNat, BitVec.setWidth_eq]
    bv_omega

/-- The words at consecutive addresses, matched with the registers from `ra` to `rb`: each register has the word as far
from the first address as the register is from `ra`. -/
theorem zip_regsFromTo (ra rb : Reg) (f : Word → Word) :
    (regsFromTo ra rb).zip ((List.range ((rb - ra).toNat + 1)).map fun k => f (BitVec.ofNat 16 k)) =
      (regsFromTo ra rb).map fun r => (r, f ((r - ra).setWidth 16)) := by
  rw [regsFromTo, List.zip_map', List.map_map]
  refine List.map_congr_left fun k hk => ?_
  have small : k < 16 := by have := List.mem_range.1 hk; omega
  have offset : (ra + BitVec.ofNat 4 k - ra).setWidth 16 = BitVec.ofNat 16 k := by bv_omega
  rw [Function.comp, offset]

end Sys2Proof.Machine

namespace Sys2Proof.Claims

open Sys2Proof.Machine

section Updates

variable {s t : State} {ic : Word} {regs : Reg → Word} {cs : Nibble} {requests : Word} {stored : List (Nat × Word)}

/-- Registers written each with its own word hold it, whatever the order; the others stay. -/
theorem Leaves.setRegs_map (h : Leaves s t ic regs cs requests stored) (rs : List Reg) (f : Reg → Word) :
    Leaves s (Machine.setRegs (rs.map fun r => (r, f r)) t) ic (fun q => if q ∈ rs then f q else regs q) cs requests
      stored := by
  induction rs generalizing t regs with
  | nil => exact h.congr rfl (fun q => (if_neg List.not_mem_nil).symm) rfl rfl
  | cons r rest ih =>
    refine (ih (h.setReg r (f r))).congr rfl (fun q => ?_) rfl rfl
    by_cases hq : q = r
    · subst hq; simp
    · simp [hq]

end Updates

/-! ### Single, double and triple loads -/

/-- A word in its register, CS from it. -/
theorem leaves_loadWord (s : State) (len : Word) (r : Reg) (v : Word) :
    Leaves s (loadWord r v (s.advance len)) (s.ic + len) (putWord s r v) (condition v.toInt) 0 [] :=
  (((leaves_advance s len).setReg r v).setCs _).congr rfl (fun _ => rfl) (csSign_eq v) rfl

theorem leaves_loadPair (s : State) (len : Word) (r : Reg) (v : Double) :
    Leaves s (loadPair r v (s.advance len)) (s.ic + len) (putPair s r v) (condition v.toInt) 0 [] :=
  (((leaves_advance s len).setPair r v).setCs _).congr rfl (fun _ => rfl) (csSign_eq v) rfl

theorem leaves_loadTriple (s : State) (len : Word) (r : Reg) (v : Triple) :
    Leaves s (loadTriple r v (s.advance len)) (s.ic + len) (putTriple s r v) (condition v.toInt) 0 [] :=
  (((leaves_advance s len).setTriple r v).setCs _).congr rfl (fun _ => rfl) (csSign_eq v) rfl

/-- A byte load loads the register's own upper byte with the byte of the word (44_load.md R392, R394). -/
theorem loadByte_eq_loadWord (upper : Bool) (r : Reg) (d : Word) (s : State) :
    (if upper then loadUpperByte else loadLowerByte) r d s =
      loadWord r (upperByte (s.reg r) ++ (if upper then upperByte d else lowerByte d)) s := by
  cases upper with
  | true => rfl
  | false => rfl

/-! ### Multiple loads -/

/-- LM, its words readable, writes each register from 0 to `n` with its word (44_load.md R384). -/
theorem exec_lm_of_readable {n : Nibble} {addr : Word} {rx : Reg} {s : State}
    (h : s.Readable (s.direct addr rx) (n.toNat + 1)) :
    exec (.lm n addr rx) s = .next (setRegs
      ((regsFromTo 0 n).map fun r => (r, s.wordAt (s.direct addr rx + r.setWidth 16))) (s.advance 2)) := by
  have words := zip_regsFromTo 0 n fun k => s.wordAt (s.direct addr rx + k)
  simp only [sub_zero] at words
  rw [← words, ← regsTo_eq_regsFromTo]
  exact onOperand_of_ok (operand := fun m => m.readMany (m.direct addr rx) (n.toNat + 1))
    (State.readMany_of_readable (s := s.advance 2) h) _

/-- POPM, its words readable, writes each register from `ra` to `rb` but R15 with its word, and moves R15 past them
(44_load.md R396). -/
theorem exec_popm_of_readable {ra rb : Reg} {s : State} (h : s.Readable (s.reg 15) ((rb - ra).toNat + 1)) :
    exec (.popm ra rb) s = .next ((setRegs
      (((regsFromTo ra rb).filter (· != 15)).map fun r => (r, s.wordAt (s.reg 15 + (r - ra).setWidth 16)))
      (s.advance 1)).setReg 15 (s.reg 15 + BitVec.ofNat 16 ((rb - ra).toNat + 1))) := by
  have loaded : ((regsFromTo ra rb).zip ((List.range ((rb - ra).toNat + 1)).map fun k =>
      s.wordAt (s.reg 15 + BitVec.ofNat 16 k))).filter (fun p => p.1 != 15) =
      ((regsFromTo ra rb).filter (· != 15)).map fun r => (r, s.wordAt (s.reg 15 + (r - ra).setWidth 16)) := by
    rw [zip_regsFromTo ra rb fun k => s.wordAt (s.reg 15 + k), List.filter_map]; rfl
  rw [← length_regsFromTo] at h loaded ⊢
  rw [← loaded]
  exact onOperand_of_ok (operand := fun n => n.readMany (n.reg 15) (regsFromTo ra rb).length)
    (State.readMany_of_readable (s := s.advance 1) h) _

end Sys2Proof.Claims

open Sys2Proof Sys2Proof.Machine Sys2Proof.Claims

/-- Settles O26: each form is one of the load operations on its operand, and a byte load is the load of a word put
together from the register and the operand. -/
theorem loadResult : Obligations.LoadResult := by
  unfold Obligations.LoadResult
  refine ⟨?word, ?byte, ?pair, ?triple⟩
  case word =>
    intro i acc len q s form readable
    exact ⟨_, form.exec_eq readable, leaves_loadWord s len acc _⟩
  case byte =>
    intro i acc upper q s form readable v
    refine ⟨_, form.exec_eq readable, ?_⟩
    rw [loadByte_eq_loadWord]
    exact leaves_loadWord s 2 acc v
  case pair =>
    intro i acc len q s form readable
    exact ⟨_, form.exec_eq readable, leaves_loadPair s len acc _⟩
  case triple =>
    intro ra addr rx s readable
    exact ⟨_, on_directTriple ⟨trivial, fun _ hda => Option.some.inj hda ▸ readable⟩ 2 (loadTriple ra),
      leaves_loadTriple s 2 ra _⟩

/-- Settles O27: every register of the list has its own word, and R15 is written last, past the words read. -/
theorem loadMultipleResult : Obligations.LoadMultipleResult := by
  unfold Obligations.LoadMultipleResult
  constructor
  · intro n addr rx s readable
    refine ⟨_, exec_lm_of_readable readable, ((leaves_advance s 2).setRegs_map _ _).congr rfl (fun r => ?_) rfl rfl⟩
    simp only [mem_regsFromTo, sub_zero]
  · intro ra rb s readable
    refine ⟨_, exec_popm_of_readable readable,
      (((leaves_advance s 1).setRegs_map _ _).setReg 15 _).congr rfl (fun r => ?_) rfl rfl⟩
    have past : s.reg 15 + BitVec.ofNat 16 ((rb - ra).toNat + 1) = s.reg 15 + (rb - ra).setWidth 16 + 1 := by bv_omega
    by_cases pointer : r = 15
    · rw [if_pos pointer, if_pos pointer, past]
    · rw [if_neg pointer, if_neg pointer]
      exact if_congr (by rw [List.mem_filter, mem_regsFromTo, bne_iff_ne, and_iff_left pointer]) rfl rfl
end

section
/-! SUPPORT. What the stores leave (45_store.md): the words of a multiple store and of a push in order, and the word
that one step of MOV moves. -/

namespace Sys2Proof.Machine

/-! ### The words of a multiple store -/

/-- Values made from positions, numbered, are paired each with its own position. -/
theorem zipIdx_map_range {α : Type} (f : Nat → α) (n : Nat) :
    ((List.range n).map f).zipIdx = (List.range n).map fun k => (f k, k) := by
  rw [List.zipIdx_eq_zip_range', List.length_map, List.length_range, ← List.range_eq_range', ← List.zip_map',
    List.map_id']

/-- A register that is in no pair of the list keeps its word. -/
theorem reg_setRegs_of_notMem {ps : List (Reg × Word)} {r : Reg} (s : State) (h : r ∉ ps.map (·.1)) :
    (setRegs ps s).reg r = s.reg r := by
  induction ps generalizing s with
  | nil => rfl
  | cons p rest ih =>
    obtain ⟨here, there⟩ := not_or.1 (mt List.mem_cons.2 h)
    exact (ih (s.setReg p.1 p.2) there).trans ((State.reg_setReg s p.1 r p.2).trans (if_neg here))

theorem moveOverlaps_iff {ra rb : Reg} : moveOverlaps ra rb = true ↔ rb = ra ∨ rb = ra + 1 := by
  rw [moveOverlaps, Bool.or_eq_true, beq_iff_eq, beq_iff_eq]

end Sys2Proof.Machine

namespace Sys2Proof.Claims

open Sys2Proof.Machine

/-! ### The push -/

/-- PSHM writes the registers from the last to the first, and moves R15 below them (45_store.md R426). -/
theorem exec_pshm_eq_writeThen (ra rb : Reg) (s : State) :
    exec (.pshm ra rb) s = .next ((s.advance 1).writeThen
      ((List.range ((rb - ra).toNat + 1)).map fun k => (s.reg 15 - 1 - BitVec.ofNat 16 k,
        if rb - BitVec.ofNat 4 k = 15 then s.reg 15 - 1 - BitVec.ofNat 16 k else s.reg (rb - BitVec.ofNat 4 k)))
      fun t => t.setReg 15 (s.reg 15 - BitVec.ofNat 16 ((rb - ra).toNat + 1))) := by
  have writes : exec (.pshm ra rb) s = .next ((s.advance 1).writeThen
      (pushes (s.reg 15) (regsFromTo ra rb).reverse (s.advance 1))
      fun t => t.setReg 15 (s.reg 15 - BitVec.ofNat 16 (regsFromTo ra rb).length)) := rfl
  rw [writes, reverse_regsFromTo, pushes_map_range, length_regsFromTo]; rfl

/-- Words that can each be written are stored in order, and the instruction goes on. -/
theorem writeThen_map_range_of_writable {s : State} {la w : Nat → Word} {n : Nat} (hn : 0 < n)
    (h : ∀ k, k < n → s.Writable (la k) 1) (next : State → State) :
    s.writeThen ((List.range n).map fun k => (la k, w k)) next =
      next (s.storeAll ((List.range n).map fun k => (s.target (la k), w k))) := by
  rw [State.writeThen_of_allowed (h 0 hn).1, List.map_map]
  · rfl
  · intro p hp
    obtain ⟨k, hk, rfl⟩ := List.mem_map.1 hp
    have allowed := (h k (List.mem_range.1 hk)).2 0 Nat.one_pos
    rwa [BitVec.add_zero] at allowed

/-! ### One step of MOV -/

/-- A single word that can be written is stored, and the instruction goes on. -/
theorem writeThen_of_writable {s : State} {la : Word} (h : s.Writable la 1) (w : Word) (k : State → State) :
    s.writeThen [(la, w)] k = k (s.storePhysical (s.target la) w) :=
  State.writeThen_of_allowed h.1 (State.writable_consecutive (ws := [w]) h)

/-- MOV whose registers do not overlap, its word readable and writable, moves that word (45_store.md R409). -/
theorem exec_mov_of_separate {s : State} {ra rb : Reg} (ha : rb ≠ ra) (hc : rb ≠ ra + 1)
    (count : s.reg (ra + 1) ≠ 0#16) (readable : s.Readable (s.reg rb) 1) (writable : s.Writable (s.reg ra) 1) :
    exec (.mov ra rb) s = .next (moveCounter ra s.ic (moveRegs ra rb ((s.advance 1).storeAll
      [(s.target (s.reg ra), s.wordAt (s.reg rb))]))) := by
  rw [exec_mov_of_readable count readable, moveWord, if_neg (mt moveOverlaps_iff.1 (not_or.2 ⟨ha, hc⟩))]
  exact congrArg _ (writeThen_of_writable (s := s.advance 1) writable _ _)

/-- MOV whose registers overlap stores one word and writes its registers, all of them free values (log 13). -/
theorem exec_mov_of_overlap {s : State} {ra rb : Reg} (overlap : rb = ra ∨ rb = ra + 1)
    (count : s.reg (ra + 1) ≠ 0#16) (readable : s.Readable (s.reg rb) 1) (writable : s.Writable (s.reg ra) 1) :
    ∃ (w a b c : Word) (n : Nat), exec (.mov ra rb) s = .next (moveCounter ra s.ic
      (setRegs [(ra, a), (rb, b), (ra + 1, c)] { s.storePhysical (s.target (s.reg ra)) w with freeCount := n })) := by
  rw [exec_mov_of_readable count readable, moveWord, if_pos (moveOverlaps_iff.2 overlap)]
  exact ⟨_, _, _, _, _, congrArg _ (writeThen_of_writable (s := s.advance 1) writable _ _)⟩

section Updates

variable {s t : State} {ic : Word} {cs : Nibble} {requests : Word} {stored : List (Nat × Word)}

/-- The registers of MOV, no two of them the same (45_store.md R409). -/
theorem Leaves.moveRegs {ra rb : Reg} (h : Leaves s t ic s.reg cs requests stored) (ha : rb ≠ ra)
    (hc : rb ≠ ra + 1) :
    Leaves s (Machine.moveRegs ra rb t) ic
      (fun r => if r = ra then s.reg ra + 1 else if r = ra + 1 then s.reg (ra + 1) - 1
        else if r = rb then s.reg rb + 1 else s.reg r) cs requests stored := by
  refine (((h.setReg ra _).setReg rb _).setReg (ra + 1) _).congr rfl (fun r => ?_) rfl rfl
  have hac := Reg.ne_add_one ra
  simp only [State.reg_setReg, h.registers, if_neg ha, if_neg hac.symm, if_neg hc.symm]
  by_cases address : r = ra
  · subst address; rw [if_neg hac, if_neg ha.symm, if_pos rfl]; simp
  · simp only [if_neg address]

/-- IC after a word is moved, by the count that is left (45_store.md R409). -/
theorem Leaves.moveCounter {regs : Reg → Word} (h : Leaves s t ic regs cs requests stored) (ra : Reg) (ia : Word) :
    Leaves s (Machine.moveCounter ra ia t) (if regs (ra + 1) = 0 then ia + 1 else ia) regs cs requests stored := by
  rw [← h.registers]
  exact h.jumpTo _

end Updates

end Sys2Proof.Claims

open Sys2Proof Sys2Proof.Machine Sys2Proof.Claims

/-- Settles O28: each form is one store of its words at the derived address, from which they lie one after the other. -/
theorem storeResult : Obligations.StoreResult := by
  unfold Obligations.StoreResult
  refine ⟨?registers, ?constant, ?multiple⟩
  case registers =>
    intro i len q rs s form writable
    obtain ⟨da, address, hexec⟩ := form.exec_eq writable.1
    have words : (s.advance len).Writable da (rs.map s.reg).length := by
      rw [List.length_map]; exact writable.2 da address
    refine ⟨da, address, _, hexec, ((leaves_advance s len).store words).storing ?_⟩
    rw [List.zipIdx_map, List.map_map]; rfl
  case constant =>
    intro i n q s form writable
    obtain ⟨da, address, hexec⟩ := form.exec_eq writable.1
    rw [BitVec.ofNat_toNat]
    exact ⟨da, address, _, hexec, (leaves_advance s 2).storeWord (writable.2 da address) _⟩
  case multiple =>
    intro n addr rx s writable
    have words : (s.advance 2).Writable (s.direct addr rx) ((regsTo n).map s.reg).length := by
      rw [List.length_map, regsTo, List.length_map, List.length_range]; exact writable
    refine ⟨_, rfl, ((leaves_advance s 2).store words).storing ?_⟩
    rw [regsTo, List.map_map, zipIdx_map_range, List.map_map]; rfl

/-- Settles O30: the stores are made in the order of the push, and R15 is written last. -/
theorem pushMultipleResult : Obligations.PushMultipleResult := by
  unfold Obligations.PushMultipleResult
  intro ra rb s writable
  have last : s.reg 15 - BitVec.ofNat 16 ((rb - ra).toNat + 1) = s.reg 15 - 1 - (rb - ra).setWidth 16 := by
    rw [Word.sub_succ, BitVec.ofNat_toNat]
  have hexec := (exec_pshm_eq_writeThen ra rb s).trans
    (congrArg _ (writeThen_map_range_of_writable (s := s.advance 1) (Nat.succ_pos _) writable _))
  exact ⟨_, hexec, last ▸ ((leaves_advance s 1).storeAll _).setReg 15 _⟩

/-- Settles O31: with a count of zero only IC moves; else one word is stored, the registers move on, and IC is set by
the count that is left. -/
theorem moveMultipleResult : Obligations.MoveMultipleResult := by
  unfold Obligations.MoveMultipleResult
  constructor
  · intro ra rb s count
    exact ⟨_, if_pos count, leaves_advance s 1⟩
  · intro ra rb s ha hc count readable writable
    have stored := (leaves_advance s 1).storeAll [(s.target (s.reg ra), s.wordAt (s.reg rb))]
    have moved := (stored.moveRegs ha hc).moveCounter ra s.ic
    refine ⟨_, exec_mov_of_separate ha hc count readable writable, moved.congr ?_ (fun _ => rfl) rfl rfl⟩
    rw [if_neg (Reg.ne_add_one ra).symm, if_pos rfl]
    exact if_congr (sub_eq_zero (b := (1 : Word))) rfl rfl

/-- Settles O32: the one store is at the word that RA names before the step, and the free values go to the registers of
the instruction only. -/
theorem overlappingMoveResult : Obligations.OverlappingMoveResult := by
  unfold Obligations.OverlappingMoveResult
  intro ra rb s overlap count readable writable
  obtain ⟨w, a, b, c, n, hexec⟩ := exec_mov_of_overlap overlap count readable writable
  refine ⟨_, hexec, rfl, fun r ha hc => ?registers, fun byte other => ?memory, rfl, rfl⟩
  case registers =>
    have hb : r ≠ rb := by
      rcases overlap with rfl | rfl
      · exact ha
      · exact hc
    exact reg_setRegs_of_notMem _ (by simpa using ⟨ha, hb, hc⟩)
  case memory =>
    refine (Memory.byte_setWord s.mem _ byte w).trans ?_
    rw [if_neg (by omega), if_neg (by omega)]
end

section
/-! SUPPORT. What the fixed point additions, subtractions, absolute values and negatives leave
(46_add_subtract.md R430 to R432, R435 to R445, R453 to R463): the arithmetic of `Laws/Arithmetic.lean` put together
into one answer per operation, and that answer written. -/

namespace Sys2Proof.Claims

open Sys2Proof.Machine

/-! ### Sums and differences as exact integers -/

/-- Value, carry and overflow of a word sum (46_add_subtract.md R431). -/
theorem addFixed_word (a b : Word) : addFixed a b =
    ⟨BitVec.ofInt 16 (a.toInt + b.toInt), 65536 ≤ a.toNat + b.toNat, exceedsWord (a.toInt + b.toInt)⟩ := by
  rw [← addFixed_value, ← addFixed_overflow_word]; rfl

/-- Value, carry and overflow of a double sum (46_add_subtract.md R431). -/
theorem addFixed_double (a b : Double) : addFixed a b =
    ⟨BitVec.ofInt 32 (a.toInt + b.toInt), 4294967296 ≤ a.toNat + b.toNat, exceedsDouble (a.toInt + b.toInt)⟩ := by
  rw [← addFixed_value, ← addFixed_overflow_double]; rfl

/-- Value, absence of a borrow and overflow of a word difference (46_add_subtract.md R432). -/
theorem subFixed_word (a b : Word) : subFixed a b =
    ⟨BitVec.ofInt 16 (a.toInt - b.toInt), b.toNat ≤ a.toNat, exceedsWord (a.toInt - b.toInt)⟩ := by
  rw [← subFixed_value, ← subFixed_overflow_word, ← subFixed_carry_word]

/-- Value, absence of a borrow and overflow of a double difference (46_add_subtract.md R432). -/
theorem subFixed_double (a b : Double) : subFixed a b =
    ⟨BitVec.ofInt 32 (a.toInt - b.toInt), b.toNat ≤ a.toNat, exceedsDouble (a.toInt - b.toInt)⟩ := by
  rw [← subFixed_value, ← subFixed_overflow_double, ← subFixed_carry_double]

/-- A count of an instruction is the same number signed and unsigned (30_encoding.md R186). -/
theorem shortPositive_toNat {n : Nat} (hn : n ≤ 16) : (shortPositive n).toNat = n := by
  rw [shortPositive, BitVec.toNat_ofNat]; omega

theorem shortPositive_toInt {n : Nat} (hn : n ≤ 16) : (shortPositive n).toInt = n := by
  rw [BitVec.toInt_eq_toNat_of_lt (by rw [shortPositive_toNat hn]; omega), shortPositive_toNat hn]

/-! ### Negatives and absolute values as exact integers -/

/-- Only the most negative word has a negative that is no word (46_add_subtract.md R460). -/
theorem negFixed_word (d : Word) : negFixed d = (BitVec.ofInt 16 (-d.toInt), exceedsWord (-d.toInt)) := by
  have lo := BitVec.le_toInt d
  have hi := BitVec.toInt_lt (x := d)
  refine Prod.ext (negFixed_value d) ((eq_intMin_word d).trans ?_)
  rw [exceedsWord, ← Bool.decide_or, decide_eq_decide]; omega

/-- Only the most negative double has a negative that is no double (46_add_subtract.md R461). -/
theorem negFixed_double (d : Double) : negFixed d = (BitVec.ofInt 32 (-d.toInt), exceedsDouble (-d.toInt)) := by
  have lo := BitVec.le_toInt d
  have hi := BitVec.toInt_lt (x := d)
  refine Prod.ext (negFixed_value d) ((eq_intMin_double d).trans ?_)
  rw [exceedsDouble, ← Bool.decide_or, decide_eq_decide]; omega

/-- Only the most negative word has an absolute value that is no word (46_add_subtract.md R442). -/
theorem absFixed_word (d : Word) : absFixed d = (BitVec.ofInt 16 d.toInt.natAbs, exceedsWord d.toInt.natAbs) := by
  have lo := BitVec.le_toInt d
  have hi := BitVec.toInt_lt (x := d)
  refine Prod.ext (absFixed_value d) ((eq_intMin_word d).trans ?_)
  rw [exceedsWord, ← Bool.decide_or, decide_eq_decide]; omega

/-- Only the most negative double has an absolute value that is no double (46_add_subtract.md R443). -/
theorem absFixed_double (d : Double) :
    absFixed d = (BitVec.ofInt 32 d.toInt.natAbs, exceedsDouble d.toInt.natAbs) := by
  have lo := BitVec.le_toInt d
  have hi := BitVec.toInt_lt (x := d)
  refine Prod.ext (absFixed_value d) ((eq_intMin_double d).trans ?_)
  rw [exceedsDouble, ← Bool.decide_or, decide_eq_decide]; omega

/-! ### The results written -/

/-- A word in a register, CS, and the overflow requested. -/
theorem leaves_fixedWord (s : State) (len : Word) (r : Reg) (v : Word) (c : Nibble) (o : Bool) :
    Leaves s ((((s.advance len).setReg r v).setCs c).requestIf o 4) (s.ic + len) (putWord s r v) c (request o 4) [] :=
  ((((leaves_advance s len).setReg r v).setCs c).requestIf o 4).congr rfl (fun _ => rfl) rfl (request_zero_or ..)

/-- A double in a pair, CS, and the overflow requested. -/
theorem leaves_fixedPair (s : State) (len : Word) (r : Reg) (v : Double) (c : Nibble) (o : Bool) :
    Leaves s ((((s.advance len).setPair r v).setCs c).requestIf o 4) (s.ic + len) (putPair s r v) c (request o 4) [] :=
  ((((leaves_advance s len).setPair r v).setCs c).requestIf o 4).congr rfl (fun _ => rfl) rfl (request_zero_or ..)

section Results

variable {s : State} {len : Word} {r : Reg} {carry o : Bool}

theorem leaves_addWord {d v : Word} (h : addFixed (s.reg r) d = ⟨v, carry, o⟩) :
    Leaves s (addWord r d (s.advance len)) (s.ic + len) (putWord s r v) (withCarry carry (condition v.toInt))
      (request o 4) [] := by
  rw [addWord, State.reg_advance, h, ← csArith_eq]; exact leaves_fixedWord ..

theorem leaves_subWord {d v : Word} (h : subFixed (s.reg r) d = ⟨v, carry, o⟩) :
    Leaves s (subWord r d (s.advance len)) (s.ic + len) (putWord s r v) (withCarry carry (condition v.toInt))
      (request o 4) [] := by
  rw [subWord, State.reg_advance, h, ← csArith_eq]; exact leaves_fixedWord ..

theorem leaves_addPair {d v : Double} (h : addFixed (s.pair r) d = ⟨v, carry, o⟩) :
    Leaves s (addPair r d (s.advance len)) (s.ic + len) (putPair s r v) (withCarry carry (condition v.toInt))
      (request o 4) [] := by
  rw [addPair, State.pair_advance, h, ← csArith_eq]; exact leaves_fixedPair ..

theorem leaves_subPair {d v : Double} (h : subFixed (s.pair r) d = ⟨v, carry, o⟩) :
    Leaves s (subPair r d (s.advance len)) (s.ic + len) (putPair s r v) (withCarry carry (condition v.toInt))
      (request o 4) [] := by
  rw [subPair, State.pair_advance, h, ← csArith_eq]; exact leaves_fixedPair ..

theorem leaves_putSigned {x : Word × Bool} {v : Word} (h : x = (v, o)) :
    Leaves s (putSigned r x (s.advance 1)) (s.ic + 1) (putWord s r v) (condition v.toInt) (request o 4) [] := by
  rw [h, ← csSign_eq]; exact leaves_fixedWord ..

theorem leaves_putSignedPair {x : Double × Bool} {v : Double} (h : x = (v, o)) :
    Leaves s (putSignedPair r x (s.advance 1)) (s.ic + 1) (putPair s r v) (condition v.toInt) (request o 4) [] := by
  rw [h, ← csSign_eq]; exact leaves_fixedPair ..

/-- A word of memory that can be written, replaced by its sum or difference with a count (46_add_subtract.md R441,
R459). -/
theorem leaves_updateMemory {op : Word → Word → FixedSum 16} {n : Nat} {la w v : Word} (writable : s.Writable la 1)
    (h : op w (shortPositive n) = ⟨v, carry, o⟩) :
    Leaves s (updateMemory op n (la, w) (s.advance 2)) (s.ic + 2) s.reg (withCarry carry (condition v.toInt))
      (request o 4) [(s.target la, v)] := by
  rw [updateMemory, h, ← csArith_eq]
  dsimp only
  rw [writeThen_of_writable (s := s.advance 2) writable]
  exact ((((leaves_advance s 2).storeAll [(s.target la, v)]).setCs _).requestIf o 4).congr rfl (fun _ => rfl) rfl
    (request_zero_or ..)

end Results

end Sys2Proof.Claims

open Sys2Proof Sys2Proof.Machine Sys2Proof.Claims

/-- Settles O38: past the read of the operand, each form is one sum or difference written. -/
theorem addSubtractResult : Obligations.AddSubtractResult := by
  unfold Obligations.AddSubtractResult
  refine ⟨?addWord, ?subtractWord, ?addPair, ?subtractPair⟩
  case addWord =>
    intro i acc len q s form readable total
    exact ⟨_, form.exec_eq readable, leaves_addWord (addFixed_word ..)⟩
  case subtractWord =>
    intro i acc len q s form readable total
    exact ⟨_, form.exec_eq readable, leaves_subWord (subFixed_word ..)⟩
  case addPair =>
    intro i acc len q s form readable a total
    exact ⟨_, form.exec_addPair readable, leaves_addPair (addFixed_double ..)⟩
  case subtractPair =>
    intro i acc len q s form readable a total
    exact ⟨_, form.exec_subPair readable, leaves_subPair (subFixed_double ..)⟩

/-- Settles O39: past the read, each is one store of the sum or difference with the count, and CS and the request come
from that sum. -/
theorem incrementMemoryResult : Obligations.IncrementMemoryResult := by
  unfold Obligations.IncrementMemoryResult
  intro n addr rx s _ hn readable writable w
  have operand := Operand.readable_direct readable
  have sum := addFixed_word w (shortPositive n)
  have difference := subFixed_word w (shortPositive n)
  rw [shortPositive_toInt hn, shortPositive_toNat hn] at sum difference
  exact ⟨⟨_, on_directCell operand 2 (updateMemory addFixed n), leaves_updateMemory writable sum⟩,
    ⟨_, on_directCell operand 2 (updateMemory subFixed n), leaves_updateMemory writable difference⟩⟩

/-- Settles O40: each writes the low-order bits of the exact absolute value or negative, which is out of range for the
most negative number only. -/
theorem absoluteNegateResult : Obligations.AbsoluteNegateResult := by
  unfold Obligations.AbsoluteNegateResult
  intro ra rb s w d word pair
  exact ⟨⟨_, rfl, leaves_putSigned (absFixed_word (s.reg rb))⟩,
    ⟨_, rfl, leaves_putSigned (negFixed_word (s.reg rb))⟩,
    ⟨_, rfl, leaves_putSignedPair (absFixed_double (s.pair rb))⟩,
    ⟨_, rfl, leaves_putSignedPair (negFixed_double (s.pair rb))⟩⟩
end

section
/-! SUPPORT. FABS and FNEG (46_add_subtract.md R452, R470): the result is again normalized or zero and stands for the
exact absolute value or negative, but for the operands at the ends of the exponent range. -/

namespace Sys2Proof.Claims

open Sys2Proof.Machine

/-! ### Patterns and what they unpack to -/

theorem packFloat_unpackFloat (x : Double) : packFloat (unpackFloat x) = x := by
  rw [packFloat, unpackFloat, BitVec.ofInt_toInt, BitVec.ofInt_toInt,
    BitVec.extractLsb'_append_extractLsb'_eq_extractLsb' (show 8 = 0 + 8 from rfl), BitVec.extractLsb'_eq_self]

theorem unpackFloat_injective : Function.Injective unpackFloat :=
  Function.LeftInverse.injective packFloat_unpackFloat

/-! ### The arithmetic -/

/-- Every normalized mantissa but -1.0 and 0.5 has a normalized negative. -/
theorem NormalMantissa.neg {w : Nat} {m : Int} (h : NormalMantissa w m) (lowest : m ≠ -twoPow (w - 1))
    (half : m ≠ twoPow (w - 2)) : NormalMantissa w (-m) := by
  unfold NormalMantissa at h ⊢
  omega

theorem normalMantissa_half : NormalMantissa 24 (twoPow 22) := .inl (by decide)

theorem normalMantissa_lowest : NormalMantissa 24 (-twoPow 23) := .inr (by decide)

/-- A floating point result that requests nothing, is normalized or zero, and has an exact value. -/
structure ExactFloat (r : FloatResult) (x : Int) : Prop where
  /-- Normalized or zero. -/
  allowed : Allowed 24 r.value
  /-- The value (00_scope.md R37). -/
  value : scaledValue r.value = x
  /-- No interrupt. -/
  request : r.request = .none

section Values

variable {m e : Int}

/-- The operand itself. -/
theorem exactFloat_self {u : Unpacked} (h : Allowed 24 u) : ExactFloat ⟨u, .none⟩ (scaledValue u) := ⟨h, rfl, rfl⟩

/-- The negative of a mantissa that is no power of two is normalized with the same exponent. -/
theorem exactFloat_neg (h : Allowed 24 ⟨m, e⟩) (lowest : m ≠ -twoPow 23) (half : m ≠ twoPow 22) :
    ExactFloat ⟨⟨-m, e⟩, .none⟩ (-scaledValue ⟨m, e⟩) where
  allowed := by
    rcases h with zero | normal
    · cases zero; exact .inl rfl
    · obtain ⟨mantissa, exponent⟩ := normal_iff.1 normal
      exact .inr (normal_iff.2 ⟨mantissa.neg lowest half, exponent⟩)
  value := Int.neg_mul m _
  request := rfl

/-- The negative of -1.0 is 0.5 with the next exponent. -/
theorem exactFloat_neg_lowest (h : Allowed 24 ⟨-twoPow 23, e⟩) (top : e ≠ 127) :
    ExactFloat ⟨⟨twoPow 22, e + 1⟩, .none⟩ (-scaledValue ⟨-twoPow 23, e⟩) where
  allowed := by
    have exponent := h.exponent
    exact .inr (normal_iff.2 ⟨normalMantissa_half, by dsimp only at *; omega⟩)
  value := by
    rw [scaledValue_succ_exponent _ h.exponent.1, scaledValue, ← twoPow_succ, Int.neg_mul, Int.neg_neg]
  request := rfl

/-- The negative of 0.5 is -1.0 with the exponent before. -/
theorem exactFloat_neg_half (h : Allowed 24 ⟨twoPow 22, e⟩) (bottom : e ≠ -128) :
    ExactFloat ⟨⟨-twoPow 23, e - 1⟩, .none⟩ (-scaledValue ⟨twoPow 22, e⟩) where
  allowed := by
    have exponent := h.exponent
    exact .inr (normal_iff.2 ⟨normalMantissa_lowest, by dsimp only at *; omega⟩)
  value := by
    have exponent := h.exponent
    have next := scaledValue_succ_exponent (twoPow 22) (e := e - 1) (by dsimp only at *; omega)
    rw [Int.sub_add_cancel, ← twoPow_succ] at next
    rw [next, scaledValue, Int.neg_mul]
  request := rfl

end Values

/-- FABS, away from -1.0 x 2^127 (46_add_subtract.md R452). -/
theorem exactFloat_absFloat {u : Unpacked} (h : Allowed 24 u) (top : u ≠ ⟨-twoPow 23, 127⟩) :
    ExactFloat (absFloat u) (scaledValue u).natAbs := by
  obtain ⟨m, e⟩ := u
  have sign := scaledValue_neg_iff ⟨m, e⟩
  rw [absFloat]
  dsimp only at sign ⊢
  by_cases negative : m < 0
  · rw [Int.ofNat_natAbs_of_nonpos (sign.2 negative).le]
    by_cases lowest : m = -twoPow 23
    · subst lowest
      have he : e ≠ 127 := fun h => top (by rw [h])
      rw [if_pos rfl, if_neg he]
      exact exactFloat_neg_lowest h he
    · rw [if_neg lowest, if_pos negative]
      exact exactFloat_neg h lowest fun half => absurd (half ▸ negative) (by decide)
  · have lowest : m ≠ -twoPow 23 := fun h => negative (h ▸ by decide)
    rw [if_neg lowest, if_neg negative, Int.natAbs_of_nonneg (not_lt.1 (mt sign.1 negative))]
    exact exactFloat_self h

/-- FNEG, away from -1.0 x 2^127 and 0.5 x 2^-128 (46_add_subtract.md R470). -/
theorem exactFloat_negFloat {u : Unpacked} (h : Allowed 24 u) (top : u ≠ ⟨-twoPow 23, 127⟩)
    (bottom : u ≠ ⟨twoPow 22, -128⟩) : ExactFloat (negFloat u) (-scaledValue u) := by
  obtain ⟨m, e⟩ := u
  rw [ne_eq, Unpacked.mk.injEq] at top bottom
  rw [negFloat]
  dsimp only
  rw [if_neg top, if_neg bottom]
  by_cases lowest : m = -twoPow 23
  · rw [if_pos lowest]
    subst lowest
    exact exactFloat_neg_lowest h fun he => top ⟨rfl, he⟩
  · rw [if_neg lowest]
    by_cases half : m = twoPow 22
    · rw [if_pos half]
      subst half
      exact exactFloat_neg_half h fun he => bottom ⟨rfl, he⟩
    · rw [if_neg half]
      exact exactFloat_neg h lowest half

/-- -1.0 x 2^127 has no absolute value: the largest number, with the overflow (46_add_subtract.md R452). -/
theorem absFloat_of_eq_lowest {d : Double} (h : d = 0x8000007F#32) :
    absFloat (unpackFloat d) = ⟨unpackFloat 0x7FFFFF7F#32, .overflow⟩ := by subst h; decide

/-- -1.0 x 2^127 has no negative: the largest number, with the overflow (46_add_subtract.md R470). -/
theorem negFloat_of_eq_lowest {d : Double} (h : d = 0x8000007F#32) :
    negFloat (unpackFloat d) = ⟨unpackFloat 0x7FFFFF7F#32, .overflow⟩ := by subst h; decide

/-- 0.5 x 2^-128 has no negative: zero, with the underflow (46_add_subtract.md R470). -/
theorem negFloat_of_eq_smallest {d : Double} (h : d = 0x40000080#32) :
    negFloat (unpackFloat d) = ⟨unpackFloat 0#32, .underflow⟩ := by subst h; decide

/-! ### The result written -/

section Written

variable {i : Instr} {op : Unpacked → FloatResult} {ra : Reg} {d : Double} {s : State}

/-- An allowed operand: the result of the operation is written (46_add_subtract.md R452, R470). -/
theorem completes_floatOf {x : Double} {r : FloatRequest} (hexec : exec i s = .next (floatOf op ra d (s.advance 1)))
    (legal : isLegalFloat d = true) (h : op (unpackFloat d) = ⟨unpackFloat x, r⟩) :
    Completes i s (s.ic + 1) (putPair s ra x) (condition x.toInt) (floatRequest r) [] := by
  have written := leaves_putFloat s 1 ra ⟨unpackFloat x, r⟩
  rw [packFloat_unpackFloat] at written
  rw [floatOf, if_pos legal, h] at hexec
  exact ⟨_, hexec, written⟩

/-- An exact result is written as a pattern that stands for it. -/
theorem completes_floatOf_of_exact {v : Int} (hexec : exec i s = .next (floatOf op ra d (s.advance 1)))
    (legal : isLegalFloat d = true) (h : ExactFloat (op (unpackFloat d)) v) :
    ∃ x : Double, isLegalFloat x = true ∧ scaledValue (unpackFloat x) = v ∧
      Completes i s (s.ic + 1) (putPair s ra x) (condition x.toInt) 0 [] := by
  obtain ⟨allowed, value, request⟩ := h
  have packed := unpackFloat_packFloat allowed
  exact ⟨_, isLegalFloat_packFloat allowed, packed.symm ▸ value,
    completes_floatOf (r := .none) hexec legal (by rw [packed, ← request])⟩

end Written

end Sys2Proof.Claims

open Sys2Proof Sys2Proof.Machine Sys2Proof.Claims

/-- Settles O51: the two operands at the ends of the exponent range are evaluated, and on every other one the result is
exact. -/
theorem floatAbsoluteNegateResult : Obligations.FloatAbsoluteNegateResult := by
  unfold Obligations.FloatAbsoluteNegateResult
  intro ra rb s d gives legal
  have allowed := allowed_unpackFloat legal
  have top : d ≠ 0x8000007F#32 → unpackFloat d ≠ ⟨-twoPow 23, 127⟩ := unpackFloat_injective.ne
  have bottom : d ≠ 0x40000080#32 → unpackFloat d ≠ ⟨twoPow 22, -128⟩ := unpackFloat_injective.ne
  have fabs := exec_fabs ra rb s
  have fneg := exec_fneg ra rb s
  refine ⟨fun lowest => ⟨?_, ?_⟩, fun smallest => ?_, fun notLowest => ?_, fun notLowest notSmallest => ?_⟩
  · exact completes_floatOf fabs legal (absFloat_of_eq_lowest lowest)
  · exact completes_floatOf fneg legal (negFloat_of_eq_lowest lowest)
  · exact completes_floatOf fneg legal (negFloat_of_eq_smallest smallest)
  · exact completes_floatOf_of_exact fabs legal (exactFloat_absFloat allowed (top notLowest))
  · exact completes_floatOf_of_exact fneg legal
      (exactFloat_negFloat allowed (top notLowest) (bottom notSmallest))
end

section
/-! SUPPORT. What a program whose PS is not 0 cannot change (60_exceptions.md R650 to R652, 10_state.md R60): every
update of which the instructions that are not privileged are made leaves it, and a privileged one is aborted. -/

namespace Sys2Proof.Claims

open Sys2Proof.Machine

/-! ### The DMA accesses before a reference -/

/-- A DMA access records fault 1, 2 or 8, or stores a word that exists, or does nothing: it keeps what these keep
(20_memory.md R130, R131; log 17). -/
theorem State.dmaAccess_keeps {P : State → Prop}
    (fault : ∀ {u : State} {k : Nat}, k = 1 ∨ k = 2 ∨ k = 8 → P u → P (u.recordFault k))
    (store : ∀ {u : State} {pa : Nat} {w : Word}, u.cfg.isPresent pa = true → P u → P (u.storePhysical pa w))
    {s : State} (h : P s) (a : DmaAccess) : P (s.dmaAccess a) := by
  cases a with
  | write pa w =>
    rw [State.dmaAccess, State.dmaWrite]
    split_ifs with _ _ absent
    · exact fault (by decide) h
    · exact fault (by decide) h
    · exact store (by simpa using absent) h
    · exact h
  | read pa =>
    rw [State.dmaAccess, State.dmaRead]
    split_ifs
    · exact fault (by decide) h
    · exact fault (by decide) h
    · exact h
    · exact h

/-- So do the accesses before a reference, where the schedule itself does not count (20_memory.md R153). -/
theorem State.awaitBus_keeps {P : State → Prop}
    (schedule : ∀ {u : State} {bus : List (List DmaAccess)}, P u → P { u with bus := bus })
    (fault : ∀ {u : State} {k : Nat}, k = 1 ∨ k = 2 ∨ k = 8 → P u → P (u.recordFault k))
    (store : ∀ {u : State} {pa : Nat} {w : Word}, u.cfg.isPresent pa = true → P u → P (u.storePhysical pa w))
    {s : State} (h : P s) : P s.awaitBus := by
  unfold State.awaitBus
  split
  · exact h
  · exact List.foldlRecOn (motive := P) _ _ (schedule h) fun _ h a _ => State.dmaAccess_keeps fault store h a

/-! ### What the privileged instructions guard -/

theorem or_and_self_of_and {a b : Word} (h : b &&& a = a) (x : Word) : (b ||| x) &&& a = a := by
  rw [BitVec.and_or_distrib_right, h]
  apply BitVec.eq_of_getLsbD_eq
  intro i hi
  rw [BitVec.getLsbD_or, BitVec.getLsbD_and]
  cases a.getLsbD i <;> simp

/-- A state differs from another in what a user may change only: the general registers, IC, CS, new faults and new
requests, HALTED, memory with its parity, the memory fault status, and the model's own lists and counters. -/
structure Confined (s t : State) : Prop where
  /-- Everything else. -/
  guarded : { t with regs := s.regs, ic := s.ic, sw := s.sw, ft := s.ft, pir := s.pir, halted := s.halted,
                     mem := s.mem, mfsr := s.mfsr, atExecutive := s.atExecutive, badParity := s.badParity,
                     bus := s.bus, freeCount := s.freeCount } = s
  /-- The status word but CS. -/
  status : t.sw.extractLsb' 0 12 = s.sw.extractLsb' 0 12
  /-- No fault is cleared. -/
  faults : t.ft &&& s.ft = s.ft
  /-- No request is cleared. -/
  requests : t.pir &&& s.pir = s.pir

theorem Confined.refl (s : State) : Confined s s := ⟨rfl, rfl, BitVec.and_self, BitVec.and_self⟩

section Updates

variable {s t : State}

theorem Confined.request (h : Confined s t) {x : Word} : Confined s { t with pir := t.pir ||| x } :=
  ⟨h.guarded, h.status, h.faults, or_and_self_of_and h.requests x⟩

theorem Confined.recordFault (h : Confined s t) {k : Nat} : Confined s (t.recordFault k) :=
  ⟨h.guarded, h.status, or_and_self_of_and h.faults _, or_and_self_of_and h.requests _⟩

theorem Confined.storePhysical (h : Confined s t) {pa : Nat} {w : Word} : Confined s (t.storePhysical pa w) :=
  ⟨h.guarded, h.status, h.faults, h.requests⟩

theorem Confined.awaitBus (h : Confined s t) : Confined s t.awaitBus :=
  State.awaitBus_keeps (P := Confined s) (fun h => ⟨h.guarded, h.status, h.faults, h.requests⟩)
    (fun _ h => h.recordFault) (fun _ h => h.storePhysical) h

end Updates

theorem kept_confined (s : State) : Kept (Confined s) where
  setReg h := ⟨h.guarded, h.status, h.faults, h.requests⟩
  setCs h := ⟨h.guarded, (State.status_setCs ..).trans h.status, h.faults, h.requests⟩
  request h := h.request
  draw h := ⟨h.guarded, h.status, h.faults, h.requests⟩
  awaitBus h := h.awaitBus
  storePhysical _ h := h.storePhysical
  raiseFault {u a} h := Confined.recordFault (t := u.capture a.ref) ⟨h.guarded, h.status, h.faults, h.requests⟩
  halt h := ⟨h.guarded, h.status, h.faults, h.requests⟩

theorem keptByJumps_confined (s : State) : KeptByJumps (Confined s) where
  jumpTo h := ⟨h.guarded, h.status, h.faults, h.requests⟩

/-! ### Privileged instructions -/

/-- A privileged instruction with PS not 0 is aborted before anything else of it happens (60_exceptions.md R650). -/
theorem Privileged.exec_of_user {i : Instr} (hp : Privileged i) {s : State} (user : s.ps ≠ 0#4) :
    exec i s = .next (aborted s (s.ic + 2) 10 none) := by
  have refused (o : Machine.Outcome) : privileged s o = .next (aborted s (s.ic + 2) 10 none) := if_neg user
  cases hp with
  | xio => exact refused _
  | vio => exact refused _
  | lst => exact refused _
  | lsti => exact refused _

/-- No instruction but BEX leaves what it may change where PS is not 0. -/
theorem confined_of_exec {i : Instr} {s t : State} (user : s.ps ≠ 0#4) (notBex : ∀ n, i ≠ .bex n)
    (ht : exec i s = .next t) : Confined s t := by
  by_cases hp : Privileged i
  · obtain rfl := Host.Outcome.next.inj ((hp.exec_of_user user).symm.trans ht)
    exact ((kept_confined s).raiseFault (u := s.advance 2) (a := privilegedAbort)
      ((keptByJumps_confined s).jumpTo (Confined.refl s)))
  · exact (kept_confined s).exec_of_jumps (keptByJumps_confined s) hp notBex (Confined.refl s) t ht

end Sys2Proof.Claims

open Sys2Proof Sys2Proof.Machine Sys2Proof.Claims

/-- Settles O11: no update of an instruction that is neither privileged nor BEX touches what the privileged instructions
guard. -/
theorem userStateIsConfined : Obligations.UserStateIsConfined := by
  unfold Obligations.UserStateIsConfined
  intro i s t user notBex ht
  obtain ⟨guarded, status, faults, requests⟩ := confined_of_exec user notBex ht
  have same {α : Type} (field : State → α) := congrArg field guarded
  exact ⟨same State.mkr, same State.inten, same State.endly, same State.pihold, status, same State.pri,
    same State.pro, same State.mpr, same State.mpen, same State.suen, same State.timers, same State.io,
    same State.console, same State.cfg, same State.env, faults, requests⟩
end

section
/-! SUPPORT. That every instruction answers a next state (log 18), and which of them record a privileged instruction
fault (60_exceptions.md R600, R650): the references of an instruction meet faults 0, 2 and 8 only. -/

namespace Sys2Proof.Claims

open Sys2Proof.Machine

/-! ### The faults of a reference -/

theorem State.readFault_ne_privileged (s : State) (r : MemRef) (key : Nibble) :
    s.readFault r key ≠ some .privileged := by
  rw [State.readFault_eq]
  split_ifs <;> simp

theorem State.writeFault_ne_privileged (s : State) (r : MemRef) (key : Nibble) :
    s.writeFault r key ≠ some .privileged := by
  rw [State.writeFault_eq]
  split_ifs <;> simp

/-- The privileged instruction bit of the fault register is set in the second of two states only if it is in the
first (10_state.md R63). -/
def NoPrivilegeFault (s t : State) : Prop := t.ft.getMsbD 10 = true → s.ft.getMsbD 10 = true

section Updates

variable {s t : State}

theorem NoPrivilegeFault.recordFault {k : Nat} (h : NoPrivilegeFault s t) (hk : k ≠ 10) :
    NoPrivilegeFault s (t.recordFault k) := by
  intro set
  refine h ?_
  rw [State.recordFault_ft, BitVec.getMsbD_or, BitVec.getMsbD_and, getMsbD_bitMask k 10 (by decide),
    decide_eq_false (Ne.symm hk), Bool.false_and, Bool.or_false] at set
  exact set

theorem NoPrivilegeFault.raiseFault {a : Abort} (h : NoPrivilegeFault s t) (ha : a.fault ≠ .privileged) :
    NoPrivilegeFault s (t.raiseFault a) := by
  refine NoPrivilegeFault.recordFault (t := t.capture a.ref) h ?_
  have other : ∀ k : CpuFault, k ≠ .privileged → k.bit ≠ 10 := by
    intro k hk
    cases k
    case privileged => exact absurd rfl hk
    all_goals decide
  exact other a.fault ha

theorem NoPrivilegeFault.awaitBus (h : NoPrivilegeFault s t) : NoPrivilegeFault s t.awaitBus :=
  State.awaitBus_keeps (P := NoPrivilegeFault s) (fun h => h) (fun hk h => h.recordFault (by omega)) (fun _ h => h) h

end Updates

/-! ### Reads -/

/-- Reads that record no privileged instruction fault, and abort the instruction by another fault if at all. -/
structure PlainReading {α : Type} (s : State) (x : Reading α) : Prop where
  /-- The state after them. -/
  state : NoPrivilegeFault s x.2
  /-- The abort. -/
  abort : ∀ a, x.1 = .error a → a.fault ≠ .privileged

section Reads

variable {s t : State} {α β : Type}

theorem plainReading_ok (h : NoPrivilegeFault s t) (v : α) : PlainReading s (.ok v, t) := ⟨h, nofun⟩

theorem PlainReading.andThen {x : Reading α} {k : α → State → Reading β} (hx : PlainReading s x)
    (hk : ∀ {v : α} {u : State}, NoPrivilegeFault s u → PlainReading s (k v u)) : PlainReading s (x.andThen k) := by
  obtain ⟨r, u⟩ := x
  cases r with
  | error a => exact ⟨hx.state, fun b hb => hx.abort b (by cases hb; rfl)⟩
  | ok v => exact hk hx.state

theorem plainReading_reference (h : NoPrivilegeFault s t) (r : MemRef) (key : Nibble) :
    PlainReading s (t.reference r key) := by
  refine ⟨h.awaitBus, fun a ha privileged => State.readFault_ne_privileged t.awaitBus r key ?_⟩
  have aborted : t.awaitBus.readWord r key = .error a := ha
  cases hf : t.awaitBus.readFault r key with
  | none => rw [State.readWord_of_allowed hf] at aborted; exact nomatch aborted
  | some k =>
    rw [State.readWord_of_refused hf] at aborted
    cases aborted
    exact congrArg some privileged

theorem plainReading_read {la : Word} (h : NoPrivilegeFault s t) : PlainReading s (t.read la) :=
  plainReading_reference h _ _

theorem plainReading_readDouble {la : Word} (h : NoPrivilegeFault s t) : PlainReading s (t.readDouble la) :=
  (plainReading_read h).andThen fun h => (plainReading_read h).andThen fun h => plainReading_ok h _

theorem plainReading_readTriple {la : Word} (h : NoPrivilegeFault s t) : PlainReading s (t.readTriple la) :=
  (plainReading_readDouble h).andThen fun h => (plainReading_read h).andThen fun h => plainReading_ok h _

theorem plainReading_readMany {la : Word} {n : Nat} (h : NoPrivilegeFault s t) : PlainReading s (t.readMany la n) := by
  induction n generalizing t la with
  | zero => exact plainReading_ok h _
  | succ n ih => exact (plainReading_read h).andThen fun h => (ih h).andThen fun h => plainReading_ok h _

theorem plainReading_cell {la : Word} (h : NoPrivilegeFault s t) : PlainReading s (t.cell la) :=
  (plainReading_read h).andThen fun h => plainReading_ok h _

theorem plainReading_readContext {la : Word} (h : NoPrivilegeFault s t) : PlainReading s (t.readContext la) :=
  (plainReading_read h).andThen fun h => (plainReading_read h).andThen fun h =>
    (plainReading_read h).andThen fun h => plainReading_ok h _

theorem plainReading_readService {n : Nat} {entry : Nibble} (h : NoPrivilegeFault s t) :
    PlainReading s (t.readService n entry) :=
  (plainReading_reference h _ _).andThen fun h => (plainReading_reference h _ _).andThen fun h =>
    (plainReading_reference h _ _).andThen fun h => (plainReading_reference h _ _).andThen fun h =>
      (plainReading_reference h _ _).andThen fun h => plainReading_ok h _

end Reads

/-! ### Writes -/

/-- Writes that record no privileged instruction fault, and abort the instruction by another fault if at all. -/
structure PlainWriting (s : State) (x : State × Option Abort) : Prop where
  /-- The state after them. -/
  state : NoPrivilegeFault s x.1
  /-- The abort. -/
  abort : ∀ a, x.2 = some a → a.fault ≠ .privileged

section Writes

variable {s t : State}

theorem plainWriting_done (h : NoPrivilegeFault s t) : PlainWriting s (t, none) := ⟨h, nofun⟩

theorem plainWriting_abort {a : Abort} (h : NoPrivilegeFault s t) (ha : a.fault ≠ .privileged) :
    PlainWriting s (t, some a) := ⟨h, fun _ hb => Option.some.inj hb ▸ ha⟩

theorem plainWriting_writeWord {r : MemRef} {key : Nibble} {w : Word} (h : NoPrivilegeFault s t) :
    PlainWriting s (t.writeWord r key w) := by
  have never := State.writeFault_ne_privileged t r key
  unfold State.writeWord
  cases hf : t.writeFault r key with
  | none => exact plainWriting_done h
  | some k => exact plainWriting_abort h fun hk => never (hf.trans (congrArg some hk))

theorem plainWriting_writeAll {group key : Nibble} {ws : List (Word × Word)} (h : NoPrivilegeFault s t) :
    PlainWriting s (t.writeAll group key ws) := by
  induction ws generalizing t with
  | nil => exact plainWriting_done h
  | cons p rest ih =>
    obtain ⟨la, w⟩ := p
    have first := plainWriting_writeWord h.awaitBus (r := ⟨la, .operand, group⟩) (key := key) (w := w)
    rw [State.writeAll]
    generalize t.awaitBus.writeWord _ key w = x at first
    obtain ⟨u, _ | a⟩ := x
    · exact ih first.state
    · exact first

/-- What follows writes, or their fault recorded. -/
theorem PlainWriting.afterWrites {x : State × Option Abort} {k : State → State} (hx : PlainWriting s x)
    (hk : ∀ {u : State}, NoPrivilegeFault s u → NoPrivilegeFault s (k u)) : NoPrivilegeFault s (afterWrites x k) := by
  obtain ⟨u, _ | a⟩ := x
  · exact hk hx.state
  · exact hx.state.raiseFault (hx.abort a rfl)

theorem noPrivilegeFault_writeThen {ws : List (Word × Word)} {k : State → State} (h : NoPrivilegeFault s t)
    (hk : ∀ {u : State}, NoPrivilegeFault s u → NoPrivilegeFault s (k u)) : NoPrivilegeFault s (t.writeThen ws k) :=
  (plainWriting_writeAll h).afterWrites hk

theorem noPrivilegeFault_store {la : Word} {ws : List Word} (h : NoPrivilegeFault s t) :
    NoPrivilegeFault s (t.store la ws) := noPrivilegeFault_writeThen h id

theorem noPrivilegeFault_storeBack {f : State → Word → Word} {cell : Word × Word} (h : NoPrivilegeFault s t) :
    NoPrivilegeFault s (storeBack f cell t) := noPrivilegeFault_store h

end Writes

/-! ### What an instruction does with its operand -/

section Operations

variable {s t : State}

theorem State.ft_requestFloat (r : FloatRequest) : (t.requestFloat r).ft = t.ft := by cases r <;> rfl

theorem ft_floatWith (op : Unpacked → Unpacked → FloatResult) (acc : Reg) (d : Double) :
    (floatWith op acc d t).ft = t.ft := by
  unfold floatWith
  split_ifs
  · exact State.ft_requestFloat _
  · rfl

theorem ft_extendedWith (op : Unpacked → Unpacked → FloatResult) (acc : Reg) (d : Triple) :
    (extendedWith op acc d t).ft = t.ft := by
  unfold extendedWith
  split_ifs
  · exact State.ft_requestFloat _
  · rfl

theorem ft_floatOf (op : Unpacked → FloatResult) (ra : Reg) (d : Double) : (floatOf op ra d t).ft = t.ft := by
  unfold floatOf
  split_ifs
  · exact State.ft_requestFloat _
  · rfl

theorem ft_compareFloat (acc : Reg) (d : Double) : (compareFloat acc d t).ft = t.ft := by
  unfold compareFloat; split_ifs <;> rfl

theorem ft_compareExtended (acc : Reg) (d : Triple) : (compareExtended acc d t).ft = t.ft := by
  unfold compareExtended; split_ifs <;> rfl

theorem ft_fixWord (ra : Reg) (d : Double) : (fixWord ra d t).ft = t.ft := by
  unfold fixWord
  split_ifs
  · split <;> rfl
  · rfl

theorem ft_fixPair (ra : Reg) (d : Triple) : (fixPair ra d t).ft = t.ft := by
  unfold fixPair
  split_ifs
  · split <;> rfl
  · rfl

theorem ft_shiftRegister (left right : Word → Nat → Word) (overflows : Word → Nat → Bool) (ra rb : Reg) :
    (shiftRegister left right overflows ra rb t).ft = t.ft := by
  unfold shiftRegister; split <;> rfl

theorem ft_shiftPair (left right : Double → Nat → Double) (overflows : Double → Nat → Bool) (ra rb : Reg) :
    (shiftPair left right overflows ra rb t).ft = t.ft := by
  unfold shiftPair; split <;> rfl

theorem State.ft_setRegs (ps : List (Reg × Word)) : (setRegs ps t).ft = t.ft := by
  induction ps generalizing t with
  | nil => rfl
  | cons p rest ih => exact ih

theorem State.ft_jumpIf (b : Bool) (a : Word) : (t.jumpIf b a).ft = t.ft := by cases b <;> rfl

theorem NoPrivilegeFault.congr {u : State} (h : NoPrivilegeFault s t) (hu : u.ft = t.ft) : NoPrivilegeFault s u := by
  unfold NoPrivilegeFault; rwa [hu]

theorem noPrivilegeFault_updateMemory {op : Word → Word → FixedSum 16} {n : Nat}
    {cell : Word × Word} (h : NoPrivilegeFault s t) : NoPrivilegeFault s (updateMemory op n cell t) :=
  noPrivilegeFault_writeThen h id

theorem noPrivilegeFault_testAndSet {n : Nibble} {cell : Word × Word} (h : NoPrivilegeFault s t) :
    NoPrivilegeFault s (testAndSet n cell t) := (plainWriting_writeWord h).afterWrites id

theorem noPrivilegeFault_moveWord {ra rb : Reg} {ia v : Word} (h : NoPrivilegeFault s t) :
    NoPrivilegeFault s (moveWord ra rb ia v t) := by
  unfold moveWord
  split_ifs
  · exact noPrivilegeFault_writeThen h fun h => h.congr (State.ft_setRegs (t := _) _)
  · exact noPrivilegeFault_writeThen h id

/-- A status word load records fault 11 at most (60_exceptions.md R608). -/
theorem NoPrivilegeFault.loadContext {c : Context} (h : NoPrivilegeFault s t) :
    NoPrivilegeFault s (t.loadContext c) := by
  unfold State.loadContext State.loadSw
  split_ifs
  · exact NoPrivilegeFault.recordFault (t := { t with mkr := c.mask }) h (by decide)
  · exact h

theorem State.ft_freeze (n : Nat) : (t.freeze n).ft = t.ft := by rw [State.freeze_eq]

/-- The interrupt sequence, complete or refused (60_exceptions.md R624, R629). -/
theorem plainWriting_interruptSequence {n : Nat} {entry : Nibble} (h : NoPrivilegeFault s t) :
    PlainWriting s (t.interruptSequence n entry) := by
  have service := plainReading_readService (n := n) (entry := entry)
    (t := { t with pir := t.pir &&& ~~~bitMask n, pihold := t.pihold &&& ~~~bitMask n }) h
  unfold State.interruptSequence
  dsimp only
  generalize State.readService _ n entry = x at service
  obtain ⟨a | ⟨c, lp⟩, u⟩ := x
  · exact plainWriting_abort service.state (service.abort a rfl)
  · have stores := plainWriting_writeAll (group := (u.loadContext c).as) (key := 0#4)
      (ws := consecutive lp [t.mkr, t.sw, t.ic]) (service.state.loadContext (c := c))
    dsimp only
    generalize State.writeAll _ _ _ _ = y at stores
    obtain ⟨v, _ | a⟩ := y
    · exact plainWriting_done (NoPrivilegeFault.congr (t := v.disable) stores.state (State.ft_freeze n))
    · exact plainWriting_abort (t := v.disable) stores.state (stores.abort a rfl)

end Operations

/-! ### Input and output -/

section Commands

variable {s t : State}

theorem noPrivilegeFault_of_cleared {u : State} (h : u.ft = 0#16) : NoPrivilegeFault s u := by
  intro set
  rw [h] at set
  simp at set

theorem noPrivilegeFault_runOutput {c : OutCommand} {v : Word} (h : NoPrivilegeFault s t) :
    NoPrivilegeFault s (t.runOutput c v) := by
  cases c
  case wsw =>
    show NoPrivilegeFault s (t.loadSw v)
    unfold State.loadSw
    split_ifs
    · exact h.recordFault (by decide)
    · exact h
  case co => unfold State.runOutput; dsimp only; split_ifs <;> exact h
  case clir => exact noPrivilegeFault_of_cleared rfl
  case rpi =>
    by_cases machineError : v.extractLsb' 0 4 = 1
    · exact noPrivilegeFault_of_cleared (if_pos machineError)
    · exact h.congr (if_neg machineError)
  all_goals exact h

theorem noPrivilegeFault_runInput {c : InCommand} (h : NoPrivilegeFault s t) : NoPrivilegeFault s (t.runInput c).2 := by
  cases c
  case pi | spareIn => unfold State.runInput State.takePortWord; dsimp only; split <;> exact h
  case ci => unfold State.runInput State.takeConsoleWord; dsimp only; split <;> exact h
  case rcfr => exact noPrivilegeFault_of_cleared rfl
  all_goals exact h

theorem plainWriting_vectorCommand {cmd la : Word} (h : NoPrivilegeFault s t) :
    PlainWriting s (vectorCommand cmd la t) := by
  unfold Machine.vectorCommand State.doInput
  split_ifs
  · cases inCommand t.cfg cmd with
    | none => exact plainWriting_abort h (by decide)
    | some c =>
      have stored := plainWriting_writeAll (group := (t.runInput c).2.as) (key := (t.runInput c).2.ps)
        (ws := [(la, (t.runInput c).1)]) (noPrivilegeFault_runInput h (c := c))
      dsimp only
      generalize State.writeAll _ _ _ _ = x at stored
      obtain ⟨u, _ | a⟩ := x
      · exact stored
      · exact plainWriting_abort h.awaitBus (stored.abort a rfl)
  · cases outCommand t.cfg cmd with
    | none => exact plainWriting_abort h (by decide)
    | some c =>
      have word := plainReading_read h (la := la)
      dsimp only
      generalize t.read la = x at word
      obtain ⟨a | v, u⟩ := x
      · exact plainWriting_abort word.state (word.abort a rfl)
      · exact plainWriting_done (noPrivilegeFault_runOutput word.state)

theorem plainWriting_vectorCommands {base step sel la : Word} {ns : List Nat} (h : NoPrivilegeFault s t) :
    PlainWriting s (vectorCommands base step sel la ns t) := by
  induction ns generalizing la t with
  | nil => exact plainWriting_done h
  | cons n rest ih =>
    rw [Machine.vectorCommands]
    split_ifs
    · have first := plainWriting_vectorCommand h (cmd := base + BitVec.ofNat 16 n * step) (la := la)
      generalize Machine.vectorCommand _ la t = x at first
      obtain ⟨u, _ | a⟩ := x
      · exact ih first.state
      · exact first
    · exact ih h

end Commands

/-! ### The instructions -/

/-- An outcome is a next state, and that state has no new privileged instruction fault. -/
def Runs (s : State) (o : Machine.Outcome) : Prop := ∃ t, o = .next t ∧ NoPrivilegeFault s t

section Instructions

variable {s : State} {len : Word} {α : Type}

theorem runs_completing {k : State → State} (hk : NoPrivilegeFault s (k (s.advance len))) :
    Runs s (completing s len k) := ⟨_, rfl, hk⟩

theorem runs_completing_of_ft {k : State → State} (hk : (k (s.advance len)).ft = s.ft) :
    Runs s (completing s len k) := runs_completing (NoPrivilegeFault.congr (t := s) id hk)

theorem PlainReading.runs {x : Reading α} {k : α → State → State} (hx : PlainReading s x)
    (hk : ∀ {v : α} {t : State}, NoPrivilegeFault s t → NoPrivilegeFault s (k v t)) : Runs s (onRead x k) := by
  obtain ⟨r, t⟩ := x
  cases r with
  | error a => exact ⟨_, rfl, hx.state.raiseFault (hx.abort a rfl)⟩
  | ok v => exact ⟨_, rfl, hk hx.state⟩

theorem runs_onWord {da : State → Word} {k : Word → State → State}
    (hk : ∀ {v : Word} {t : State}, NoPrivilegeFault s t → NoPrivilegeFault s (k v t)) :
    Runs s (onOperand s len (fun n => n.read (da n)) k) := (plainReading_read (t := s.advance len) id).runs hk

theorem runs_onDouble {da : State → Word} {k : Double → State → State}
    (hk : ∀ {v : Double} {t : State}, NoPrivilegeFault s t → NoPrivilegeFault s (k v t)) :
    Runs s (onOperand s len (fun n => n.readDouble (da n)) k) :=
  (plainReading_readDouble (t := s.advance len) id).runs hk

theorem runs_onTriple {da : State → Word} {k : Triple → State → State}
    (hk : ∀ {v : Triple} {t : State}, NoPrivilegeFault s t → NoPrivilegeFault s (k v t)) :
    Runs s (onOperand s len (fun n => n.readTriple (da n)) k) :=
  (plainReading_readTriple (t := s.advance len) id).runs hk

theorem runs_onCell {da : State → Word} {k : Word × Word → State → State}
    (hk : ∀ {v : Word × Word} {t : State}, NoPrivilegeFault s t → NoPrivilegeFault s (k v t)) :
    Runs s (onOperand s len (fun n => n.cell (da n)) k) := (plainReading_cell (t := s.advance len) id).runs hk

theorem runs_onMany {da : State → Word} {c : Nat} {k : List Word → State → State}
    (hk : ∀ {v : List Word} {t : State}, NoPrivilegeFault s t → NoPrivilegeFault s (k v t)) :
    Runs s (onOperand s len (fun n => n.readMany (da n) c) k) :=
  (plainReading_readMany (t := s.advance len) id).runs hk

/-- An operand read through a pointer (modes I, IX). -/
theorem runs_onPointer {da : State → Word} {x : Word → State → Reading α} {k : α → State → State}
    (hx : ∀ {v : Word} {t : State}, NoPrivilegeFault s t → PlainReading s (x v t))
    (hk : ∀ {v : α} {t : State}, NoPrivilegeFault s t → NoPrivilegeFault s (k v t)) :
    Runs s (onOperand s len (fun n => (n.read (da n)).andThen x) k) :=
  (PlainReading.andThen (plainReading_read (s := s) (t := s.advance len) id) hx).runs hk

/-- Every instruction that is not privileged runs, and records no privileged instruction fault. -/
theorem runs_of_not_privileged {i : Instr} (hp : ¬Privileged i) : Runs s (exec i s) := by
  cases i <;> unfold Machine.exec
  case xio => exact absurd (.xio ..) hp
  case vio => exact absurd (.vio ..) hp
  case lst => exact absurd (.lst ..) hp
  case lsti => exact absurd (.lsti ..) hp
  case lr | lisp | lisn | lim | dlr | sbr | rbr | svbr | rvbr | tbr | tvbr | sll | srl | sra | slc | dsll | dsrl | dsra
      | dslc | ar | aisp | aim | dar | sr | sisp | sim | dsr | abs | neg | dabs | dneg | msr | misp | misn | msim | mr
      | mim | dmr | dvr | disp | disn | dvim | dr | dim | ddr | flt | eflt | orr | orim | andr | andm | xorr | xorm | nr
      | nim | xbr | xwr | cr | cisp | cisn | cim | dcr | nop | bpt | js | br => exact runs_completing id
  case lb | lbx | l | lub | llb | tb | ab | abx | a | sbb | sbbx | s | ms | mb | mbx | m | dv | db | dbx | d | orb
      | orbx | or | andb | andx | and | xor | n | cb | cbx | c | urs => exact runs_onWord id
  case dlb | dlbx | dl | da | ds | dm | dd | cbl | dc => exact runs_onDouble id
  case efl => exact runs_onTriple id
  case li | lubi | llbi | tbi => exact runs_onPointer plainReading_read id
  case dli => exact runs_onPointer plainReading_readDouble id
  case lm | popm => exact runs_onMany fun h => h.congr (State.ft_setRegs _)
  case stb | stbx | st | stc | dstb | dstx | dst | stm | efst => exact runs_completing (noPrivilegeFault_store id)
  case sti | stci | dsti => exact runs_onWord noPrivilegeFault_store
  case srm | stub | stlb | sb | rb => exact runs_onCell noPrivilegeFault_storeBack
  case subi | slbi | sbi | rbi => exact runs_onPointer plainReading_cell noPrivilegeFault_storeBack
  case pshm | sjs => exact runs_completing (noPrivilegeFault_writeThen id id)
  case tsb => exact runs_onCell noPrivilegeFault_testAndSet
  case incm | decm => exact runs_onCell noPrivilegeFault_updateMemory
  case mov ra rb =>
    show Runs s (execMov ra rb s)
    unfold execMov
    split_ifs
    · exact runs_completing id
    · exact runs_onWord noPrivilegeFault_moveWord
  case slr | sar | scr => exact runs_completing_of_ft (ft_shiftRegister ..)
  case dslr | dsar | dscr => exact runs_completing_of_ft (ft_shiftPair ..)
  case far | fsr | fmr | fdr => exact runs_completing_of_ft (ft_floatWith ..)
  case fab | fabx | fa | fsb | fsbx | fs | fmb | fmbx | fm | fdb | fdbx | fd =>
    exact runs_onDouble fun h => h.congr (ft_floatWith ..)
  case efar | efsr | efmr | efdr => exact runs_completing_of_ft (ft_extendedWith ..)
  case efa | efs | efm | efd => exact runs_onTriple fun h => h.congr (ft_extendedWith ..)
  case fabs | fneg => exact runs_completing_of_ft (ft_floatOf ..)
  case fix => exact runs_completing_of_ft (ft_fixWord ..)
  case efix => exact runs_completing_of_ft (ft_fixPair ..)
  case fcr => exact runs_completing_of_ft (ft_compareFloat ..)
  case fcb | fcbx | fc => exact runs_onDouble fun h => h.congr (ft_compareFloat ..)
  case efcr => exact runs_completing_of_ft (ft_compareExtended ..)
  case efc => exact runs_onTriple fun h => h.congr (ft_compareExtended ..)
  case jc | soj | bez | blt | ble | bgt | bnz | bge => exact runs_completing_of_ft (State.ft_jumpIf ..)
  case jci => exact runs_onWord fun h => h.congr (State.ft_jumpIf ..)
  case bex => exact runs_completing ((plainWriting_interruptSequence id).afterWrites id)

/-- XIO past the instruction, in the supervisor state (40_input_output.md R224, R226). -/
theorem runs_executeCommand {ra : Reg} {cmd : Word} : Runs s (executeCommand ra cmd (s.advance 2)) := by
  have illegal : NoPrivilegeFault s ((s.advance 2).raiseFault illegalCommand) :=
    NoPrivilegeFault.raiseFault (t := s.advance 2) id (by decide)
  unfold executeCommand State.doInput State.doOutput
  split_ifs
  · cases inCommand (s.advance 2).cfg cmd with
    | none => exact ⟨_, rfl, illegal⟩
    | some c => exact ⟨_, rfl, noPrivilegeFault_runInput (t := s.advance 2) id⟩
  · cases outCommand (s.advance 2).cfg cmd with
    | none => exact ⟨_, rfl, illegal⟩
    | some c => exact ⟨_, rfl, noPrivilegeFault_runOutput (t := s.advance 2) id⟩

/-- A privileged instruction in the supervisor state runs, and records no privileged instruction fault. -/
theorem Privileged.runs_of_supervisor {i : Instr} (hp : Privileged i) (supervisor : s.ps = 0#4) :
    Runs s (exec i s) := by
  have allowed {o : Machine.Outcome} (ho : Runs s o) : Runs s (Machine.privileged s o) :=
    (show Machine.privileged s o = o from if_pos supervisor).symm ▸ ho
  cases hp with
  | xio ra cmd rx => exact allowed runs_executeCommand
  | vio ra addr rx =>
    exact allowed (runs_onDouble fun h => (plainWriting_vectorCommands h).afterWrites id)
  | lst addr rx =>
    exact allowed ((plainReading_readContext (t := s.advance 2) id).runs NoPrivilegeFault.loadContext)
  | lsti addr rx => exact allowed (runs_onPointer plainReading_readContext NoPrivilegeFault.loadContext)

/-- An instruction runs, and records a privileged instruction fault only if it is privileged and PS is not 0. -/
theorem exec_next (i : Instr) (s : State) :
    ∃ t, exec i s = .next t ∧ (Privileged i ∧ s.ps ≠ 0#4 ∨ NoPrivilegeFault s t) := by
  have of_runs (h : Runs s (exec i s)) :
      ∃ t, exec i s = .next t ∧ (Privileged i ∧ s.ps ≠ 0#4 ∨ NoPrivilegeFault s t) :=
    h.imp fun _ => And.imp_right .inr
  by_cases hp : Privileged i
  · by_cases supervisor : s.ps = 0#4
    · exact of_runs (hp.runs_of_supervisor supervisor)
    · exact ⟨_, hp.exec_of_user supervisor, .inl ⟨hp, supervisor⟩⟩
  · exact of_runs (runs_of_not_privileged hp)

end Instructions

/-- A step is the events, an interrupt taken or an instruction, and each answers a next state. -/
theorem step_next (s : State) : ∃ t, step s = .next t := by
  cases halted : s.applyEvents.halted with
  | true => exact ⟨_, step_of_halted halted⟩
  | false =>
    have instruction (h : s.applyEvents.atExecutive = true ∨ s.applyEvents.recognised = none) :
        ∃ t, step s = .next t := by
      rw [step_of_running halted h, instructionStep]
      cases s.applyEvents.beginInstruction.fetch with
      | aborted u => exact ⟨_, rfl⟩
      | instruction i u =>
        obtain ⟨t, ht, -⟩ := exec_next i u
        exact ⟨s.applyEvents.beginInstruction.endStep t, by simp only [ht]⟩
    cases held : s.applyEvents.atExecutive with
    | true => exact instruction (.inl held)
    | false =>
      cases due : s.applyEvents.recognised with
      | none => exact instruction (.inr due)
      | some n => exact ⟨_, step_of_recognised halted held due⟩

end Sys2Proof.Claims

open Sys2Proof Sys2Proof.Machine Sys2Proof.Claims

/-- Settles O9: every instruction answers a next state, and so does every kind of step. -/
theorem stepAlwaysCompletes : Obligations.StepAlwaysCompletes := by
  unfold Obligations.StepAlwaysCompletes
  exact ⟨fun i s => (exec_next i s).imp fun _ h => h.1, step_next⟩

/-- Settles O21: the check of PS comes first in the four privileged instructions, and no reference, command or context
load meets fault 10. -/
theorem privilegedInstructionFaults : Obligations.PrivilegedInstructionFaults := by
  unfold Obligations.PrivilegedInstructionFaults
  refine ⟨fun i s hp user => hp.exec_of_user user, fun i s t ht set => ?_⟩
  obtain ⟨u, hu, h⟩ := exec_next i s
  obtain rfl := Host.Outcome.next.inj (hu.symm.trans ht)
  exact h.symm.imp_left fun quiet => quiet set
end

section
/-! SUPPORT. What the multiplications, divisions, logical instructions, exchanges and compares leave
(47_multiply_divide.md R481 to R487; 48_logical_convert_exchange.md R530 to R546, R551, R552; 49_compare_nop_bpt.md
R560 to R576). -/

namespace Sys2Proof.Claims

open Sys2Proof.Machine

/-! ### Products and quotients as exact integers -/

/-- The low half of a product of words, and whether the product is no word (47_multiply_divide.md R481). -/
theorem mulFixed_word (a b : Word) :
    mulFixed a b = (BitVec.ofInt 16 (a.toInt * b.toInt), exceedsWord (a.toInt * b.toInt)) := by
  rw [mulFixed, outOfRange_word]

/-- The low half of a product of doubles, and whether the product is no double (47_multiply_divide.md R483). -/
theorem mulFixed_double (a b : Double) :
    mulFixed a b = (BitVec.ofInt 32 (a.toInt * b.toInt), exceedsDouble (a.toInt * b.toInt)) := by
  rw [mulFixed, outOfRange_double]

/-- A division by zero (47_multiply_divide.md R485, R486). -/
theorem divFixed_zero {w : Nat} (a : BitVec w) {b : Word} (h : b = 0) : divFixed a b = (0, 0, true) := if_pos h

theorem divDouble_zero (a : Double) {b : Double} (h : b = 0) : divDouble a b = (0, true) := if_pos h

/-! ### The results written -/

section Results

variable {s : State} {len : Word} {r : Reg} {o : Bool}

theorem leaves_mulWord {d v : Word} (h : mulFixed (s.reg r) d = (v, o)) :
    Leaves s (mulWord r d (s.advance len)) (s.ic + len) (putWord s r v) (condition v.toInt) (request o 4) [] := by
  rw [mulWord, State.reg_advance, h, ← csSign_eq]; exact leaves_fixedWord ..

theorem leaves_mulPair {d v : Double} (h : mulFixed (s.pair r) d = (v, o)) :
    Leaves s (mulPair r d (s.advance len)) (s.ic + len) (putPair s r v) (condition v.toInt) (request o 4) [] := by
  rw [mulPair, State.pair_advance, h, ← csSign_eq]; exact leaves_fixedPair ..

theorem leaves_divPair {d v : Double} (h : divDouble (s.pair r) d = (v, o)) :
    Leaves s (divPair r d (s.advance len)) (s.ic + len) (putPair s r v) (condition v.toInt) (request o 4) [] := by
  rw [divPair, State.pair_advance, h, ← csSign_eq]; exact leaves_fixedPair ..

/-- A product of words in a pair never overflows (47_multiply_divide.md R482). -/
theorem leaves_mulToPair (d : Word) :
    Leaves s (mulToPair r d (s.advance len)) (s.ic + len)
      (putPair s r (BitVec.ofInt 32 ((s.reg r).toInt * d.toInt))) (condition ((s.reg r).toInt * d.toInt)) 0 [] :=
  (((leaves_advance s len).setPair r _).setCs _).congr rfl (fun _ => rfl)
    ((csSign_eq _).trans (congrArg condition (mulWide_toInt ..))) rfl

/-- A quotient and a remainder written to a register and the next one (47_multiply_divide.md R485, R486). -/
theorem leaves_putQuotient {x : Word × Word × Bool} {q m : Word} (h : x = (q, m, o)) :
    Leaves s (putQuotient r x (s.advance len)) (s.ic + len) (putTwo s r q m) (condition q.toInt) (request o 4) [] := by
  subst h
  refine (((((leaves_advance s len).setReg r q).setReg (r + 1) m).setCs _).requestIf o 4).congr rfl (fun p => ?_)
    (csSign_eq q) (request_zero_or ..)
  have distinct := Reg.ne_add_one r
  unfold putTwo
  split <;> split <;> simp_all

theorem leaves_logicalWord (op : Word → Word → Word) (d : Word) :
    Leaves s (logicalWord op r d (s.advance len)) (s.ic + len) (putWord s r (op (s.reg r) d))
      (condition (op (s.reg r) d).toInt) 0 [] := by
  rw [← csSign_eq]; exact ((leaves_advance s len).setReg r _).setCs _

/-- CS set, and nothing else. -/
theorem leaves_compare {c v : Nibble} (h : c = v) :
    Leaves s ((s.advance len).setCs c) (s.ic + len) s.reg v 0 [] :=
  h ▸ (leaves_advance s len).setCs c

end Results

/-! ### Compares -/

theorem exec_cbl_of_readable {ra rx : Reg} {addr : Word} {s : State} (h : s.Readable (s.direct addr rx) 2) :
    exec (.cbl ra addr rx) s = .next ((s.advance 2).setCs (csLimits (s.reg ra).toInt
      (s.wordAt (s.direct addr rx)).toInt (s.wordAt (s.direct addr rx + 1)).toInt)) := by
  refine (on_directDouble (addr := addr) (rx := rx) ⟨trivial, fun da hda => ?_⟩ 2 (compareLimits ra)).trans ?_
  · exact Option.some.inj hda ▸ h
  · show Host.Outcome.next ((s.advance 2).setCs (csLimits _ (BitVec.toInt (BitVec.extractLsb' 16 16
      (_ ++ _ : Double))) (BitVec.toInt (BitVec.extractLsb' 0 16 (_ ++ _ : Double))))) = _
    rw [Word.first_of_two, Word.second_of_two]
    rfl

theorem compareFloat_of_legal {acc : Reg} {d : Double} {s : State} (ha : isLegalFloat (s.pair acc) = true)
    (hd : isLegalFloat d = true) : compareFloat acc d s =
      s.setCs (csCompare (scaledValue (unpackFloat (s.pair acc))) (scaledValue (unpackFloat d))) := by
  rw [compareFloat, ha, hd]; rfl

theorem compareExtended_of_legal {acc : Reg} {d : Triple} {s : State} (ha : isLegalFloat (s.triple acc) = true)
    (hd : isLegalFloat d = true) : compareExtended acc d s =
      s.setCs (csCompare (scaledValue (unpackExtended (s.triple acc))) (scaledValue (unpackExtended d))) := by
  rw [compareExtended, ha, hd]; rfl

end Sys2Proof.Claims

open Sys2Proof Sys2Proof.Machine Sys2Proof.Claims

/-- Settles O41: each form writes the exact product, cut to a word with the overflow requested or whole in a pair. -/
theorem multiplyResult : Obligations.MultiplyResult := by
  unfold Obligations.MultiplyResult
  constructor
  · intro i acc len q s form readable exact
    exact ⟨_, form.exec_eq readable, leaves_mulWord (mulFixed_word ..)⟩
  · intro i acc len q s form readable exact
    exact ⟨_, form.exec_eq readable, leaves_mulToPair (q.word s)⟩

/-- Settles O42: both lengths of the dividend are one division by a word, written by one operation. -/
theorem divideWordResult : Obligations.DivideWordResult := by
  unfold Obligations.DivideWordResult
  have zero {b : Word} (h : b.toInt = 0) : b = 0 := BitVec.eq_of_toInt_eq (by simpa using h)
  have nonzero {b : Word} (h : b.toInt ≠ 0) : b ≠ 0 := fun hb => h (by rw [hb]; rfl)
  intro divides
  constructor
  · intro i acc len q s form readable
    have executes : exec i s = .next (putQuotient acc (divFixed (s.reg acc) (q.word s)) (s.advance len)) :=
      form.exec_eq readable
    exact ⟨fun h => ⟨_, executes, leaves_putQuotient (divFixed_zero _ (zero h))⟩,
      fun h => ⟨_, executes, leaves_putQuotient (divFixed_of_ne _ (nonzero h))⟩⟩
  · intro i acc len q s form readable
    have executes : exec i s = .next (putQuotient acc (divFixed (s.pair acc) (q.word s)) (s.advance len)) :=
      form.exec_eq readable
    exact ⟨fun h => ⟨_, executes, leaves_putQuotient (divFixed_zero _ (zero h))⟩,
      fun h => ⟨_, executes, leaves_putQuotient (divFixed_of_ne _ (nonzero h))⟩⟩

/-- Settles O43: the low half of the exact product, or the exact quotient, written to the pair. -/
theorem multiplyDivideDoubleResult : Obligations.MultiplyDivideDoubleResult := by
  unfold Obligations.MultiplyDivideDoubleResult
  constructor
  · intro i acc len q s form readable exact
    exact ⟨_, form.exec_mulPair readable, leaves_mulPair (mulFixed_double ..)⟩
  · intro i acc len q s form readable exact
    exact ⟨fun zero => ⟨_, form.exec_divPair readable, leaves_divPair (divDouble_zero _ zero)⟩,
      fun nonzero => ⟨_, form.exec_divPair readable, leaves_divPair (divDouble_of_ne _ nonzero)⟩⟩

/-- Settles O44: past the read of the operand, each is one or two registers written, and CS from the first. -/
theorem logicalExchangeResult : Obligations.LogicalExchangeResult := by
  unfold Obligations.LogicalExchangeResult
  refine ⟨?logical, ?exchangeBytes, ?exchangeWords⟩
  case logical =>
    intro i op acc len q s form readable
    exact ⟨_, form.exec_eq readable, leaves_logicalWord op (q.word s)⟩
  case exchangeBytes =>
    intro ra s v
    exact ⟨_, rfl, csSign_eq v ▸ ((leaves_advance s 1).setReg ra v).setCs _⟩
  case exchangeWords =>
    intro ra rb s
    refine ⟨_, rfl, (((leaves_advance s 1).setReg ra (s.reg rb)).setReg rb (s.reg ra)).setCs (csSign (s.reg rb))
      |>.congr rfl (fun r => ?_) (csSign_eq _) rfl⟩
    by_cases first : r = ra
    · by_cases second : r = rb
      · simp [← first, ← second]
      · simp [first, first ▸ second]
    · simp [first]

/-- Settles O45: the condition status of a comparison is that of the exact difference. -/
theorem compareResult : Obligations.CompareResult := by
  unfold Obligations.CompareResult
  refine ⟨?word, ?pair, ?limits⟩
  case word =>
    intro i acc len q s form readable
    exact ⟨_, form.exec_eq readable, leaves_compare (csCompare_eq ..)⟩
  case pair =>
    intro i acc len q s form readable
    exact ⟨_, form.exec_comparePair readable, leaves_compare (csCompare_eq ..)⟩
  case limits =>
    intro ra addr rx s readable lower upper a
    exact ⟨_, exec_cbl_of_readable readable, leaves_compare rfl⟩

/-- Settles O53: on allowed operands the exact scaled values are compared. -/
theorem floatCompareResult : Obligations.FloatCompareResult := by
  unfold Obligations.FloatCompareResult
  constructor
  · intro i acc len q s form readable a ha hd
    refine ⟨_, form.exec_compareFloat readable, ?_⟩
    rw [compareFloat_of_legal (s := s.advance len) ha hd]
    exact leaves_compare (csCompare_eq ..)
  · intro i acc len q s form readable a ha hd
    refine ⟨_, form.exec_compareExtended readable, ?_⟩
    rw [compareExtended_of_legal (s := s.advance len) ha hd]
    exact leaves_compare (csCompare_eq ..)
end

section
/-! SUPPORT. The machine after reset and power up (70_reset_and_hazards.md R661 to R666), NOP and BPT
(49_compare_nop_bpt.md R577, R578), and which interrupt a boundary recognises (60_exceptions.md R622, R623). -/

namespace Sys2Proof.Claims

open Sys2Proof.Machine

/-! ### Reset -/

/-- Page r of group 0 is physical page r after reset, without lock and protection (70_reset_and_hazards.md R661). -/
theorem resetPages_group_zero (p : Nibble) : resetPages[0][p.toNat] = p.setWidth 16 := by revert p; decide

/-- A reset gives every register and latch of Table VI its value, and the go counter the machine's own period
(70_reset_and_hazards.md R661, R665). -/
theorem afterReset_resetMachine (s : State) : AfterReset s.resetMachine where
  registers := ⟨rfl, rfl, rfl, rfl, rfl⟩
  latches := ⟨rfl, rfl, rfl, rfl⟩
  timers := rfl
  protection := ⟨rfl, fun _ => Vector.getElem_replicate _⟩
  rom := rfl
  interfaces := ⟨rfl, rfl, rfl, rfl⟩
  frozen := ⟨rfl, rfl⟩
  pages p := ⟨resetPages_group_zero p, resetPages_group_zero p⟩

/-- The machine after power up is the one that a reset makes of it. -/
theorem State.resetMachine_reset : State.reset.resetMachine = State.reset := rfl

/-! ### The interrupt recognised -/

/-- What may be recognised: a request that is neither held nor masked, but 0 and 5 that cannot be masked, and with
interrupts disabled only 0, 1 and 5 (60_exceptions.md R622). -/
def Eligible (s : State) (n : Nat) : Prop :=
  s.pir.getMsbD n = true ∧ s.pihold.getMsbD n = false ∧ (s.mkr.getMsbD n = true ∨ n = 0 ∨ n = 5) ∧
    (s.inten = true ∨ n = 0 ∨ n = 1 ∨ n = 5)

/-- The interrupts that cannot be masked, and those that cannot be disabled, as words of their bits. -/
theorem getMsbD_unmaskable {n : Nat} (hn : n < 16) : (0x8400#16).getMsbD n = true ↔ n = 0 ∨ n = 5 := by
  revert n; decide

theorem getMsbD_undisablable {n : Nat} (hn : n < 16) : (0xC400#16).getMsbD n = true ↔ n = 0 ∨ n = 1 ∨ n = 5 := by
  revert n; decide

theorem candidates_iff (s : State) {n : Nat} (hn : n < 16) : s.candidates.getMsbD n = true ↔ Eligible s n := by
  have open_ : (s.pir &&& ~~~s.pihold &&& (s.mkr ||| 0x8400#16)).getMsbD n = true ↔
      s.pir.getMsbD n = true ∧ s.pihold.getMsbD n = false ∧ (s.mkr.getMsbD n = true ∨ n = 0 ∨ n = 5) := by
    rw [BitVec.getMsbD_and, BitVec.getMsbD_and, BitVec.getMsbD_or, BitVec.getMsbD_not, Bool.and_eq_true,
      Bool.and_eq_true, Bool.or_eq_true, getMsbD_unmaskable hn]
    simp [hn, and_assoc]
  unfold State.candidates Eligible
  cases enabled : s.inten with
  | true => rw [if_pos rfl, open_]; simp
  | false =>
    rw [if_neg (by decide), BitVec.getMsbD_and, Bool.and_eq_true, open_, getMsbD_undisablable hn]
    simp [and_assoc]

theorem candidate_iff (s : State) {n : Nat} (hn : n < 16) :
    ((s.candidates &&& bitMask n) != 0#16) = true ↔ Eligible s n := by
  rw [bne_iff_ne, ← candidates_iff s hn]
  exact and_bitMask_ne_zero_iff s.candidates hn

/-- The interrupt recognised is the eligible one of the lowest number (60_exceptions.md R623). -/
theorem recognised_eq_some_iff (s : State) (n : Nat) :
    s.recognised = some n ↔ n < 16 ∧ Eligible s n ∧ ∀ k, k < n → ¬Eligible s k := by
  rw [State.recognised, List.find?_range_eq_some]
  constructor
  · rintro ⟨first, hn, below⟩
    rw [List.mem_range] at hn
    refine ⟨hn, (candidate_iff s hn).1 first, fun k hk eligible => ?_⟩
    have excluded := below k hk
    rw [(candidate_iff s (hk.trans hn)).2 eligible] at excluded
    exact Bool.noConfusion excluded
  · rintro ⟨hn, eligible, below⟩
    refine ⟨(candidate_iff s hn).2 eligible, List.mem_range.2 hn, fun k hk => ?_⟩
    rw [Bool.not_eq_true', ← Bool.not_eq_true, candidate_iff s (hk.trans hn)]
    exact below k hk

theorem recognised_eq_none_iff (s : State) : s.recognised = none ↔ ∀ n, n < 16 → ¬Eligible s n := by
  rw [State.recognised, List.find?_eq_none]
  exact forall_congr' fun n => ⟨fun h hn => mt (candidate_iff s hn).2 (h (List.mem_range.2 hn)),
    fun h hn => mt (candidate_iff s (List.mem_range.1 hn)).1 (h (List.mem_range.1 hn))⟩

end Sys2Proof.Claims

open Sys2Proof Sys2Proof.Machine Sys2Proof.Claims

/-- Settles O7: memory is empty, every register is zero, and the page registers have only bits that exist. -/
theorem resetIsSound : Obligations.ResetIsSound := by
  unfold Obligations.ResetIsSound
  have codes : (0#16).toNat < 128 := by decide
  exact {
    canonical := State.reset_mem_wf
    present := nofun
    faults := BitVec.zero_and
    addressState := groups_pos State.reset.cfg
    pages := fun g p => ⟨resetPages_within _ g p, resetPages_within _ g p⟩
    held := BitVec.zero_and
    codes := ⟨codes, codes⟩
    options := ⟨fun _ => rfl, fun _ => rfl⟩ }

/-- Settles O10: the machine after power up is what a reset makes, with every option of the installed machine. -/
theorem resetValues : Obligations.ResetValues := by
  unfold Obligations.ResetValues
  exact ⟨State.resetMachine_reset ▸ afterReset_resetMachine State.reset, rfl, rfl⟩

/-- Settles O55: NOP and BPT by their meanings, the halted step by its own lemma. -/
theorem nopBreakPointResult : Obligations.NopBreakPointResult := by
  unfold Obligations.NopBreakPointResult
  intro s
  have halts : (s.halted || (s.cfg.hasConsole && s.console.connected)) =
      if s.cfg.hasConsole = true ∧ s.console.connected = true then true else s.halted := by
    cases s.cfg.hasConsole <;> cases s.console.connected <;> simp
  refine ⟨rfl, ?_, step_of_halted, rfl⟩
  rw [← halts]
  rfl

/-- Settles O16: the candidates are the eligible interrupts, and the first of them is recognised. -/
theorem recognisedInterrupt : Obligations.RecognisedInterrupt := by
  unfold Obligations.RecognisedInterrupt
  exact fun s => ⟨recognised_eq_some_iff s, recognised_eq_none_iff s⟩

/-- Settles O17: such a step is the interrupt sequence, with every reference allowed. -/
theorem interruptIsTaken : Obligations.InterruptIsTaken := by
  unfold Obligations.InterruptIsTaken
  intro s n running boundary due enterable
  exact ⟨_, step_of_recognised running boundary due, entered_of_enterable s.applyEvents n 0#4 enterable⟩
end

section
/-! SUPPORT. What each event of the environment does (60_exceptions.md R656; 70_reset_and_hazards.md R660 to R666). -/

namespace Sys2Proof.Claims

open Sys2Proof.Machine

variable (s : State)

/-! ### The events before a step -/

theorem State.applyEvents_of_nil {s : State} (h : s.env = []) : s.applyEvents = s := by
  rw [State.applyEvents, h]

theorem State.applyEvents_of_cons {s : State} {now : List Event} {later : List (List Event)}
    (h : s.env = now :: later) : s.applyEvents = now.foldl State.applyEvent { s with env := later } := by
  rw [State.applyEvents, h]

/-! ### Input/output interrupts -/

/-- A request of level 1, the channel noted unless the code register is frozen (60_exceptions.md R616). -/
theorem State.ioRequest_one (channel : BitVec 7) :
    s.ioRequest .one channel = if s.cfg.hasIoint1 = true then
      { s with pir := s.pir ||| 0x0008#16,
               io := if s.cfg.hasIoic = true ∧ s.io.frz1 = false then { s.io with ioic1 := channel.setWidth 16 }
                 else s.io } else s := by
  unfold State.ioRequest
  cases s.cfg.hasIoint1 with
  | false => rfl
  | true => cases s.cfg.hasIoic <;> cases s.io.frz1 <;> rfl

theorem State.ioRequest_two (channel : BitVec 7) :
    s.ioRequest .two channel = if s.cfg.hasIoint2 = true then
      { s with pir := s.pir ||| 0x0002#16,
               io := if s.cfg.hasIoic = true ∧ s.io.frz2 = false then { s.io with ioic2 := channel.setWidth 16 }
                 else s.io } else s := by
  unfold State.ioRequest
  cases s.cfg.hasIoint2 with
  | false => rfl
  | true => cases s.cfg.hasIoic <;> cases s.io.frz2 <;> rfl

/-! ### Timers -/

/-- A timer comes to 0000 from FFFF (60_exceptions.md R640). -/
theorem Word.add_one_eq_zero_iff (w : Word) : w + 1 = 0#16 ↔ w = 0xFFFF#16 := by bv_omega

/-- An interrupt requested as a timer comes to 0000. -/
theorem State.requestIf_wrap (w : Word) (n : Nat) :
    s.requestIf (w + 1 == 0#16) n = { s with pir := if w = 0xFFFF#16 then s.pir ||| bitMask n else s.pir } := by
  unfold State.requestIf
  by_cases wraps : w = 0xFFFF#16
  · rw [if_pos wraps, beq_iff_eq.2 ((Word.add_one_eq_zero_iff w).2 wraps), if_pos rfl]
  · rw [if_neg wraps, beq_eq_false_iff_ne.2 (mt (Word.add_one_eq_zero_iff w).1 wraps), if_neg (by decide),
      BitVec.or_zero]

theorem State.tickA_eq :
    s.tickA = if s.cfg.hasTimers = true ∧ s.timers.taRun = true ∧ s.halted = false then
      { s with timers := { s.timers with ta := s.timers.ta + 1 },
               pir := if s.timers.ta = 0xFFFF#16 then s.pir ||| 0x0100#16 else s.pir } else s := by
  unfold State.tickA
  rw [State.requestIf_wrap]
  cases s.cfg.hasTimers <;> cases s.timers.taRun <;> cases s.halted <;> rfl

theorem State.tickB_eq :
    s.tickB = if s.cfg.hasTimers = true ∧ s.timers.tbRun = true ∧ s.halted = false then
      { s with timers := { s.timers with tb := s.timers.tb + 1 },
               pir := if s.timers.tb = 0xFFFF#16 then s.pir ||| 0x0040#16 else s.pir } else s := by
  unfold State.tickB
  rw [State.requestIf_wrap]
  cases s.cfg.hasTimers <;> cases s.timers.tbRun <;> cases s.halted <;> rfl

/-! ### Direct memory access -/

section Dma

variable {s : State} {pa : Nat}

theorem State.dmaAccess_of_disabled (h : ¬(s.cfg.hasDma = true ∧ s.io.dmaen = true)) (a : DmaAccess) :
    s.dmaAccess a = s := by
  have disabled : s.dmaAllowed = false := by rwa [State.dmaAllowed, ← Bool.not_eq_true, Bool.and_eq_true]
  cases a <;> simp [State.dmaAccess, State.dmaWrite, State.dmaRead, disabled]

/-- The DMA half of the block protect words counts only inside the physical space (20_memory.md R130; log 17). -/
theorem State.dmaBarred_iff : (decide (pa < s.cfg.physicalWords) && s.blockProtected 64 pa) = true ↔
    pa < s.cfg.physicalWords ∧ s.cfg.hasMprot = true ∧ s.mpen = true ∧
      (s.mpr[64 + pa / 16384]?.getD 0#16).getMsbD (pa / 1024 % 16) = true := by
  rw [Bool.and_eq_true, decide_eq_true_eq, State.blockProtected, Bool.and_eq_true, Bool.and_eq_true, and_assoc]

variable (enabled : s.dmaAllowed = true)
include enabled

/-- A DMA write: the protection first, then presence, then the store (20_memory.md R130, R131). -/
theorem State.dmaWrite_of_enabled (w : Word) : s.dmaWrite pa w =
    if (decide (pa < s.cfg.physicalWords) && s.blockProtected 64 pa) = true then s.recordFault 1
    else if s.cfg.isPresent pa = true then s.storePhysical pa w else s.recordFault 8 := by
  rw [State.dmaWrite, if_pos enabled]
  cases s.cfg.isPresent pa <;> rfl

/-- A DMA read: the start up ROM answers first, then presence and parity count (20_memory.md R131 to R133). -/
theorem State.dmaRead_of_enabled : s.dmaRead pa =
    if s.romOverlays pa = true then s
    else if s.cfg.isPresent pa = true then
      if s.parityBad pa = true then s.recordFault 2 else s
    else s.recordFault 8 := by
  rw [State.dmaRead, enabled]
  cases s.romOverlays pa <;> cases s.cfg.isPresent pa <;> rfl

end Dma

end Sys2Proof.Claims

open Sys2Proof Sys2Proof.Machine Sys2Proof.Claims

/-- Settles O25, event by event. -/
theorem environmentEvents : Obligations.EnvironmentEvents := by
  unfold Obligations.EnvironmentEvents
  intro s fault
  refine ⟨State.applyEvents_of_nil, fun now later => State.applyEvents_of_cons, rfl, ?spare,
    fun channel => ⟨State.ioRequest_one s channel, State.ioRequest_two s channel⟩,
    State.tickA_eq s, State.tickB_eq s, ?outside, ?dma, fun _ => rfl, fun _ => rfl, rfl, fun _ => rfl, fun _ => rfl,
    fun _ _ => rfl, rfl, ?parity, ?reset,
    rfl, rfl⟩
  case spare =>
    simp only [List.forall_mem_cons]
    exact ⟨rfl, rfl, rfl, rfl, rfl, rfl, nofun⟩
  case outside =>
    simp only [List.forall_mem_cons]
    exact ⟨rfl, rfl, rfl, rfl, rfl, rfl, rfl, rfl, nofun⟩
  case dma =>
    intro pa w barred rom
    refine ⟨fun disabled =>
      ⟨State.dmaAccess_of_disabled disabled (.write pa w), State.dmaAccess_of_disabled disabled (.read pa)⟩,
      fun option enable => ?_⟩
    have enabled : s.dmaAllowed = true := by rw [State.dmaAllowed, option, enable]; rfl
    have write : s.applyEvent (.dma (.write pa w)) = _ := State.dmaWrite_of_enabled enabled w
    have read : s.applyEvent (.dma (.read pa)) = _ := State.dmaRead_of_enabled enabled
    rw [write, read]
    have hbarred := State.dmaBarred_iff (s := s) (pa := pa.toNat)
    have hrom := State.romOverlays_iff s pa.toNat
    have hparity := State.parityBad_iff s pa.toNat
    refine ⟨fun h => if_pos (hbarred.2 h), fun h absent => ?_, fun h present => ?_, fun h => if_pos (hrom.2 h),
      fun h absent => ?_, fun h present => ?_⟩
    · rw [if_neg (mt hbarred.1 h), absent]; rfl
    · rw [if_neg (mt hbarred.1 h), if_pos present]
    · rw [if_neg (mt hrom.1 h), absent]; rfl
    · rw [if_neg (mt hrom.1 h), if_pos present]
      exact if_congr hparity rfl rfl
  case parity =>
    intro pa
    refine ⟨_, rfl, rfl, fun pb => ?_⟩
    simp only [State.applyEvent, List.mem_cons, List.mem_filter, bne_iff_ne]
    tauto
  case reset =>
    have after := afterReset_resetMachine s
    have powered : AfterReset s.powerUp := { after with }
    simp only [List.forall_mem_cons]
    exact ⟨⟨after, rfl, rfl, rfl, rfl, rfl, rfl, rfl, rfl, rfl, rfl, rfl⟩,
      ⟨powered, rfl, rfl, rfl, rfl, rfl, rfl, rfl, rfl, rfl, rfl, rfl⟩, nofun⟩
end

section
/-! SUPPORT. The interrupt sequence when one of its references is refused (60_exceptions.md R624, R629). -/

namespace Sys2Proof.Claims

open Sys2Proof.Machine

/-! ### The reads of the vector -/

/-- The abort by the first vector read that is refused, none if all are allowed (20_memory.md R128). -/
def vectorRefusal (s : State) (las : List Word) : Option Abort :=
  las.findSome? fun la => (s.readFault ⟨la, .operand, 0#4⟩ 0#4).map fun k => ⟨k, some ⟨la, .operand, 0#4⟩⟩

theorem vectorRefusal_append (s : State) (las las' : List Word) :
    vectorRefusal s (las ++ las') = (vectorRefusal s las).or (vectorRefusal s las') := List.findSome?_append

theorem vectorRefusal_eq_none_iff {s : State} {las : List Word} :
    vectorRefusal s las = none ↔ ∀ la ∈ las, s.VectorReadable la := by
  simp only [vectorRefusal, List.findSome?_eq_none_iff, Option.map_eq_none_iff]

theorem vectorRefusal_eq_some_iff {s : State} {las : List Word} {a : Abort} :
    vectorRefusal s las = some a ↔ ∃ before la after, las = before ++ la :: after ∧
      (∃ k, s.readFault ⟨la, .operand, 0#4⟩ 0#4 = some k ∧ (⟨k, some ⟨la, .operand, 0#4⟩⟩ : Abort) = a) ∧
      ∀ b ∈ before, s.VectorReadable b := by
  simp only [vectorRefusal, List.findSome?_eq_some_iff, Option.map_eq_some_iff, Option.map_eq_none_iff]

/-- A reading makes the vector reads `las` in order: it delivers `v` if all are allowed, the first that is refused
aborts it, and it changes nothing. -/
def ReadsVector {α : Type} (s : State) (las : List Word) (v : α) (x : Reading α) : Prop :=
  x = ((vectorRefusal s las).elim (.ok v) .error, s)

section Readings

variable {s : State}

theorem ReadsVector.andThen {α β : Type} {las las' : List Word} {v : α} {w : β} {x : Reading α}
    {next : α → State → Reading β} (hx : ReadsVector s las v x) (hnext : ReadsVector s las' w (next v s)) :
    ReadsVector s (las ++ las') w (x.andThen next) := by
  rw [ReadsVector] at hx hnext ⊢
  rw [hx, vectorRefusal_append]
  cases vectorRefusal s las with
  | none => exact hnext
  | some a => rfl

variable (quiet : s.bus = [])
include quiet

theorem readsVector_readVector (la : Word) : ReadsVector s [la] (s.vectorWord la) (s.readVector la) := by
  rw [ReadsVector, State.readVector, State.reference, State.awaitBus_of_quiet quiet]
  cases hla : s.readFault ⟨la, .operand, 0#4⟩ 0#4 with
  | none => rw [State.readWord_of_allowed hla, vectorRefusal_eq_none_iff.2 (List.forall_mem_singleton.2 hla)]; rfl
  | some k =>
    have refused := vectorRefusal_eq_some_iff.2 ⟨[], la, [], rfl, ⟨k, hla, rfl⟩, nofun⟩
    rw [State.readWord_of_refused hla]
    exact congrArg (fun a : Option Abort => (a.elim (.ok (s.vectorWord la)) Except.error, s)) refused.symm

/-- The five reads deliver the new context and the linkage pointer (60_exceptions.md R611). -/
theorem readsVector_readService (n : Nat) (entry : Nibble) :
    ReadsVector s (vectorReads s n entry)
      (⟨(vector s n entry).mask, (vector s n entry).status, (vector s n entry).counter⟩, (vector s n entry).linkage)
      (s.readService n entry) :=
  have read := readsVector_readVector quiet
  (read _).andThen ((read _).andThen ((read _).andThen ((read _).andThen ((read _).andThen (las' := []) rfl))))

end Readings

/-! ### The linkage stores -/

/-- The state in which the interrupt sequence makes its references: the request is consumed (60_exceptions.md R624). -/
def consumed (s : State) (n : Nat) : State :=
  { s with pir := s.pir &&& ~~~bitMask n, pihold := s.pihold &&& ~~~bitMask n }

/-- The state in which the interrupt sequence makes its stores: the new context is loaded. -/
def vectorLoaded (s : State) (n : Nat) (entry : Nibble) : State :=
  (consumed s n).loadContext
    ⟨(vector s n entry).mask, (vector s n entry).status, (vector s n entry).counter⟩

section Entering

variable (s : State) (n : Nat) (entry : Nibble)

theorem loadsStatus_vectorLoaded :
    LoadsStatus s (vectorLoaded s n entry) (vector s n entry).status (s.pir &&& ~~~bitMask n) :=
  let loaded := loadsStatus { consumed s n with mkr := (vector s n entry).mask } (vector s n entry).status
  ⟨loaded.status, loaded.fault, loaded.request⟩

theorem vectorLoaded_eq :
    vectorLoaded s n entry =
      { s with mkr := (vector s n entry).mask, sw := (vectorLoaded s n entry).sw, ft := (vectorLoaded s n entry).ft,
               pir := (vectorLoaded s n entry).pir, pihold := s.pihold &&& ~~~bitMask n,
               ic := (vector s n entry).counter } :=
  congrArg (fun u : State => { u with ic := (vector s n entry).counter })
    (State.loadSw_eq { consumed s n with mkr := (vector s n entry).mask } (vector s n entry).status)

theorem as_vectorLoaded : (vectorLoaded s n entry).as = linkageGroup s (vector s n entry).status :=
  State.as_loadSw { consumed s n with mkr := (vector s n entry).mask } (vector s n entry).status

theorem writeFault_vectorLoaded (r : MemRef) (key : Nibble) :
    (vectorLoaded s n entry).writeFault r key = s.writeFault r key := by
  rw [vectorLoaded_eq]; rfl

theorem physical_vectorLoaded (r : MemRef) : (vectorLoaded s n entry).physical r = s.physical r := by
  rw [vectorLoaded_eq]; rfl

/-- The words of the linkage block, by their logical addresses (60_exceptions.md R611). -/
def linkageWords : List (Word × Word) := consecutive (vector s n entry).linkage [s.mkr, s.sw, s.ic]

/-- The stores by logical addresses are the linkage stores (20_memory.md R128). -/
theorem map_linkageWords :
    (linkageWords s n entry).map
        (fun p => ((vectorLoaded s n entry).physical ⟨p.1, .operand, (vectorLoaded s n entry).as⟩, p.2)) =
      linkageStores s n entry s.ic := by
  simp only [physical_vectorLoaded, as_vectorLoaded, linkageWords, consecutive_eq]
  rfl

/-- Linkage store `j` is made by reference `j`. -/
theorem linkageWords_ref {j : Nat} (hj : j < (linkageWords s n entry).length) :
    (⟨(linkageWords s n entry)[j].1, .operand, (vectorLoaded s n entry).as⟩ : MemRef) = linkageRef s n entry j := by
  simp only [as_vectorLoaded, linkageWords, consecutive_eq, List.getElem_map, List.getElem_zipIdx, Nat.zero_add,
    linkageRef]

variable {s n entry}

/-- The stores up to the first that is refused (20_memory.md R141). -/
theorem writeAll_linkageWords {j : Nat} {k : CpuFault} (quiet : s.bus = []) (hj : j < 3)
    (before : ∀ b, b < j → s.writeFault (linkageRef s n entry b) 0#4 = none)
    (refused : s.writeFault (linkageRef s n entry j) 0#4 = some k) :
    (vectorLoaded s n entry).writeAll (vectorLoaded s n entry).as 0#4 (linkageWords s n entry) =
      ((vectorLoaded s n entry).storeAll ((linkageStores s n entry s.ic).take j),
        some ⟨k, some (linkageRef s n entry j)⟩) := by
  have hj' : j < (linkageWords s n entry).length := hj
  have split : linkageWords s n entry =
      (linkageWords s n entry).take j ++ (linkageWords s n entry)[j] :: (linkageWords s n entry).drop (j + 1) := by
    rw [← List.drop_eq_getElem_cons, List.take_append_drop]
  have bus : (vectorLoaded s n entry).bus = [] := by rw [vectorLoaded_eq]; exact quiet
  have allowed : ∀ p ∈ (linkageWords s n entry).take j,
      (vectorLoaded s n entry).writeFault ⟨p.1, .operand, (vectorLoaded s n entry).as⟩ 0#4 = none := by
    intro p hp
    obtain ⟨b, hb, rfl⟩ := List.mem_take_iff_getElem.1 hp
    rw [linkageWords_ref, writeFault_vectorLoaded]
    exact before b (by omega)
  rw [← linkageWords_ref s n entry hj', ← writeFault_vectorLoaded s n entry] at refused
  have stores := State.writeAll_of_refused (w := (linkageWords s n entry)[j].2)
    (rest := (linkageWords s n entry).drop (j + 1)) bus allowed refused
  rwa [← split, List.map_take, map_linkageWords, linkageWords_ref] at stores

/-- If every read is allowed and not every reference is, then a linkage store is the first that is refused. -/
theorem exists_refused_store (quiet : s.bus = []) (readable : ∀ la ∈ vectorReads s n entry, s.VectorReadable la)
    (h : ¬Enterable s n entry) :
    ∃ j k, j < 3 ∧ (∀ b, b < j → s.writeFault (linkageRef s n entry b) 0#4 = none) ∧
      s.writeFault (linkageRef s n entry j) 0#4 = some k := by
  have refused : ∃ j, j < 3 ∧ s.writeFault (linkageRef s n entry j) 0#4 ≠ none := by
    by_contra! writable
    simp only [vectorReads, List.forall_mem_cons] at readable
    obtain ⟨service, mask, status, counter, linkage, _⟩ := readable
    exact h ⟨quiet, service, mask, status, counter, linkage, writable⟩
  classical
  obtain ⟨hj, hk⟩ := Nat.find_spec refused
  obtain ⟨k, hk⟩ := Option.ne_none_iff_exists'.1 hk
  refine ⟨Nat.find refused, k, hj, fun b hb => ?_, hk⟩
  by_contra hne
  exact Nat.find_min refused hb ⟨hb.trans hj, hne⟩

/-! ### The sequence -/

/-- The sequence up to its stores: a refused read ends it (60_exceptions.md R624, R629). -/
theorem State.interruptSequence_eq (quiet : s.bus = []) :
    s.interruptSequence n entry =
      match vectorRefusal s (vectorReads s n entry) with
      | some a => (consumed s n, some a)
      | none => match (vectorLoaded s n entry).writeAll (vectorLoaded s n entry).as 0#4 (linkageWords s n entry) with
        | (t, none) => (t.disable.freeze n, none)
        | (t, some a) => (t.disable, some a) := by
  have service : (consumed s n).readService n entry =
      ((vectorRefusal s (vectorReads s n entry)).elim
        (.ok (⟨(vector s n entry).mask, (vector s n entry).status, (vector s n entry).counter⟩,
          (vector s n entry).linkage)) .error, consumed s n) :=
    readsVector_readService (s := consumed s n) quiet n entry
  unfold consumed at service
  rw [State.interruptSequence, service]
  cases vectorRefusal s (vectorReads s n entry) <;> rfl

/-- What a refused linkage store leaves (60_exceptions.md R629; log 20). -/
theorem linkageRefused_raiseFault (j : Nat) (k : CpuFault) :
    LinkageRefused s (((vectorLoaded s n entry).storeAll ((linkageStores s n entry s.ic).take j)).disable.raiseFault
      ⟨k, some (linkageRef s n entry j)⟩) n entry s.ic j k := by
  have status := loadsStatus_vectorLoaded s n entry
  have entered := vectorLoaded_eq s n entry
  have stored := State.storeAll_eq (vectorLoaded s n entry) ((linkageStores s n entry s.ic).take j)
  have bytes := State.byte_storeAll (vectorLoaded s n entry) ((linkageStores s n entry s.ic).take j)
  have marks := State.mem_badParity_storeAll (vectorLoaded s n entry) ((linkageStores s n entry s.ic).take j)
  generalize (vectorLoaded s n entry).storeAll ((linkageStores s n entry s.ic).take j) = t at stored bytes marks ⊢
  generalize vectorLoaded s n entry = u at status entered stored bytes marks
  have ft : u.ft ||| (bitMask k.bit &&& s.cfg.faultBits) = s.ft ||| (bitMask k.bit &&& s.cfg.faultBits) |||
      (if ((vector s n entry).status.extractLsb' 0 4).toNat < s.cfg.groups then 0#16
        else bitMask 11 &&& s.cfg.faultBits) := by
    rw [status.fault]
    split_ifs
    · rw [BitVec.or_zero]
    · rw [BitVec.or_assoc, BitVec.or_assoc, BitVec.or_comm (bitMask 11 &&& _)]
  have pir : u.pir ||| bitMask 1 = (s.pir &&& ~~~bitMask n) ||| bitMask 1 := by
    rw [status.request]
    split_ifs
    · rfl
    · rw [BitVec.or_assoc, BitVec.or_self]
  rw [entered] at stored bytes marks
  rw [stored]
  exact {
    loaded := ⟨rfl, rfl⟩
    status := status.status
    faults := ft
    pending := ⟨pir, rfl⟩
    disabled := ⟨rfl, rfl⟩
    captured := rfl
    memory := bytes
    parity := marks
    rest := rfl }

/-- Without DMA accesses in between, the sequence is entered or a reference of it is refused. -/
theorem sequenceFault_of_not_enterable (quiet : s.bus = []) (h : ¬Enterable s n entry) (k : State → State) :
    SequenceFault s n entry s.ic (afterWrites (s.interruptSequence n entry) k) := by
  rw [State.interruptSequence_eq quiet]
  cases reads : vectorRefusal s (vectorReads s n entry) with
  | some a =>
    obtain ⟨before, la, after, split, ⟨k, refused, rfl⟩, allowed⟩ := vectorRefusal_eq_some_iff.1 reads
    exact .read split allowed refused
  | none =>
    have readable := vectorRefusal_eq_none_iff.1 reads
    obtain ⟨j, k, hj, before, refused⟩ := exists_refused_store quiet readable h
    rw [writeAll_linkageWords quiet hj before refused]
    exact .store readable hj before refused (linkageRefused_raiseFault j k)

end Entering

/-! ### BEX -/

/-- Whether the interrupt sequence can be made does not depend on IC. -/
theorem Enterable.of_advance {s : State} {n : Nat} {entry : Nibble} {len : Word}
    (h : Enterable (s.advance len) n entry) : Enterable s n entry :=
  ⟨h.quiet, h.service, h.mask, h.status, h.counter, h.linkage, h.store⟩

theorem SequenceFault.of_advance {s t : State} {n : Nat} {entry : Nibble} {len oldCounter : Word}
    (h : SequenceFault (s.advance len) n entry oldCounter t) : SequenceFault s n entry oldCounter t := by
  cases h with
  | read split allowed refused => exact .read split allowed refused
  | store readable hj before refused left =>
    exact .store readable hj before refused {
      loaded := left.loaded
      status := left.status
      faults := left.faults
      pending := left.pending
      disabled := left.disabled
      captured := left.captured
      memory := left.memory
      parity := left.parity
      rest := congrArg (fun u : State => { u with ic := s.ic }) left.rest }

end Sys2Proof.Claims

open Sys2Proof Sys2Proof.Machine Sys2Proof.Claims

/-- Settles O18: a step and BEX make the same sequence, which a refused read or a refused linkage store abandons. -/
theorem interruptSequenceFault : Obligations.InterruptSequenceFault := by
  unfold Obligations.InterruptSequenceFault
  refine ⟨fun s n running boundary due quiet h => ?_, fun s n quiet h => ?_⟩
  · exact ⟨_, step_of_recognised running boundary due, sequenceFault_of_not_enterable quiet h id⟩
  · refine ⟨_, rfl, SequenceFault.of_advance (len := 1) ?_⟩
    exact sequenceFault_of_not_enterable (s := s.advance 1) quiet (mt Enterable.of_advance h) State.holdBoundary
end

section
/-! SUPPORT. Conversions between integers and floating point numbers (48_logical_convert_exchange.md R547 to R550). -/

namespace Sys2Proof.Claims

open Sys2Proof.Machine

/-! ### Integer parts -/

/-- A quotient cut off toward zero stays within the bounds that its dividend keeps. -/
theorem tdiv_bounds {v b d : Int} (hd : 0 < d) (hb : 0 < b) (lo : -b * d ≤ v) (hi : v < b * d) :
    -b ≤ Int.tdiv v d ∧ Int.tdiv v d < b := by
  rcases le_total 0 v with hv | hv
  · rw [Int.tdiv_eq_ediv_of_nonneg hv]
    have nonneg := Int.ediv_nonneg hv hd.le
    exact ⟨by omega, Int.ediv_lt_of_lt_mul hd hi⟩
  · obtain ⟨x, rfl⟩ : ∃ x, v = -x := ⟨-v, (neg_neg v).symm⟩
    rw [Int.neg_tdiv, Int.tdiv_eq_ediv_of_nonneg (by omega)]
    have nonneg := Int.ediv_nonneg (a := x) (by omega) hd.le
    have upper : x / d ≤ b := Int.ediv_le_of_le_mul hd (by linarith)
    constructor <;> omega

section Integer

variable {w n : Nat} {u : Unpacked} (allowed : Allowed w u) (small : u.e ≤ n)
include allowed small

/-- The integer part in the scale of `scaledValue` (48_logical_convert_exchange.md R547, R549). -/
theorem integerPart_of_le (hw : n < w) :
    integerPart w n u = some (Int.tdiv (scaledValue u) (twoPow (w + 127))) := by
  obtain ⟨low, -⟩ := allowed.exponent
  have scale : twoPow (w + 127) = twoPow ((w : Int) - 1 - u.e).toNat * twoPow (u.e + 128).toNat := by
    rw [← twoPow_add]; congr 1; omega
  rw [integerPart, if_neg (not_lt.2 small), scale, scaledValue, Int.mul_tdiv_mul_of_pos_left _ _ (twoPow_pos _)]

/-- The integer part of a number with an exponent up to `n` is an integer of `n + 1` bits. -/
theorem toInt_integerPart (hw : 0 < w) :
    (BitVec.ofInt (n + 1) (Int.tdiv (scaledValue u) (twoPow (w + 127)))).toInt =
      Int.tdiv (scaledValue u) (twoPow (w + 127)) := by
  obtain ⟨low, -⟩ := allowed.exponent
  obtain ⟨lo, hi⟩ := allowed.fits
  have scale : twoPow (w - 1) * twoPow (u.e + 128).toNat ≤ twoPow n * twoPow (w + 127) := by
    rw [← twoPow_add, ← twoPow_add]; exact twoPow_le_twoPow (by omega)
  have pos := twoPow_pos (u.e + 128).toNat
  have lower : -twoPow n * twoPow (w + 127) ≤ scaledValue u := by rw [scaledValue]; nlinarith
  have upper : scaledValue u < twoPow n * twoPow (w + 127) := by rw [scaledValue]; nlinarith
  obtain ⟨lo', hi'⟩ := tdiv_bounds (twoPow_pos _) (twoPow_pos n) lower upper
  rw [twoPow_eq] at lo' hi'
  exact BitVec.toInt_ofInt_eq_self n.succ_pos lo' hi'

end Integer

/-! ### Integers as floating point numbers -/

/-- An exponent far enough from the least one stays in range, whatever the mantissa is doubled to. -/
theorem allowed_normalize {w : Nat} {u : Unpacked} (hw : 2 ≤ w) (fits : FitsMantissa w u.m)
    (low : (w : Int) - 129 ≤ u.e) (high : u.e ≤ 127) :
    Allowed w (Machine.normalize w u) ∧ scaledValue (Machine.normalize w u) = scaledValue u := by
  by_cases hm : u.m = 0
  · rw [normalize_zero hm, scaledValue_zero hm]
    exact ⟨.inl rfl, rfl⟩
  · have inRange : -128 ≤ (Machine.normalize w u).e := by
      by_contra below
      obtain ⟨lo, hi⟩ := (normalize_underflows_iff hw hm fits (by omega)).1 (not_le.1 below)
      have scale : twoPow (w - 1) ≤ twoPow (u.e + 128).toNat := twoPow_le_twoPow (by omega)
      have half := twoPow_pos (w - 2)
      rw [twoPow_pred hw] at scale
      rw [scaledValue] at lo hi
      rcases lt_or_gt_of_ne hm with hneg | hpos <;> nlinarith
    have top := normalize_exponent_le hw hm fits
    exact ⟨.inr (normal_iff.2 ⟨normalMantissa_normalize hw hm fits, inRange, top.trans high⟩),
      scaledValue_normalize hw hm fits inRange⟩

/-- An integer of `w` bits is a mantissa of eight more. -/
theorem fitsMantissa_toInt {w : Nat} (hw : 0 < w) (v : BitVec w) : FitsMantissa (w + 8) (v.toInt * twoPow 8) := by
  have lo := BitVec.le_toInt v
  have hi := BitVec.toInt_lt (x := v)
  have scale : twoPow (w + 8 - 1) = twoPow (w - 1) * twoPow 8 := by rw [← twoPow_add]; congr 1; omega
  have pos := twoPow_pos 8
  rw [← twoPow_eq] at lo hi
  rw [FitsMantissa, scale]
  constructor <;> nlinarith

/-- FLT gives the number itself (48_logical_convert_exchange.md R548). -/
theorem floatOfWord_exact (v : Word) :
    isLegalFloat (floatOfWord v) = true ∧ scaledValue (unpackFloat (floatOfWord v)) = v.toInt * twoPow 151 := by
  obtain ⟨allowed, value⟩ := allowed_normalize (w := 24) (u := ⟨v.toInt * twoPow 8, 15⟩) (by decide)
    (fitsMantissa_toInt (by decide) v) (show (24 : Int) - 129 ≤ 15 by decide) (show (15 : Int) ≤ 127 by decide)
  rw [floatOfWord, unpackFloat_packFloat allowed, value]
  exact ⟨isLegalFloat_packFloat allowed, by rw [scaledValue, mul_assoc, ← twoPow_add]; rfl⟩

/-- EFLT gives the number itself (48_logical_convert_exchange.md R550). -/
theorem extendedOfDouble_exact (v : Double) :
    isLegalFloat (extendedOfDouble v) = true ∧
      scaledValue (unpackExtended (extendedOfDouble v)) = v.toInt * twoPow 167 := by
  obtain ⟨allowed, value⟩ := allowed_normalize (w := 40) (u := ⟨v.toInt * twoPow 8, 31⟩) (by decide)
    (fitsMantissa_toInt (by decide) v) (show (40 : Int) - 129 ≤ 31 by decide) (show (31 : Int) ≤ 127 by decide)
  rw [extendedOfDouble, unpackExtended_packExtended allowed, value]
  exact ⟨isLegalFloat_packExtended allowed, by rw [scaledValue, mul_assoc, ← twoPow_add]; rfl⟩

/-! ### What the conversions leave -/

section Conversions

variable (s : State) (ra : Reg)

/-- A number beyond the range: CS from the register as it is, and interrupt 4 (48_logical_convert_exchange.md R547). -/
theorem leaves_keep {w : Nat} (len : Word) (v : BitVec w) :
    Leaves s (((s.advance len).setCs (csSign v)).requestIf true 4) (s.ic + len) s.reg (condition v.toInt)
      (request true 4) [] :=
  (((leaves_advance s len).setCs (csSign v)).requestIf true 4).congr rfl (fun _ => rfl) (csSign_eq v) BitVec.zero_or

theorem fixWord_of_le {d : Double} (legal : isLegalFloat d = true) (small : (unpackFloat d).e ≤ 15) :
    fixWord ra d s = loadWord ra (BitVec.ofInt 16 (Int.tdiv (scaledValue (unpackFloat d)) (twoPow 151))) s := by
  have part : integerPart 24 15 (unpackFloat d) = some _ :=
    integerPart_of_le (n := 15) (allowed_unpackFloat legal) small (by decide)
  rw [fixWord, if_pos legal, part]
  rfl

theorem fixWord_of_gt {d : Double} (legal : isLegalFloat d = true) (large : 15 < (unpackFloat d).e) :
    fixWord ra d s = (s.setCs (csSign (s.reg ra))).requestIf true 4 := by
  rw [fixWord, if_pos legal, integerPart, if_pos large]

theorem fixPair_of_le {d : Triple} (legal : isLegalFloat d = true) (small : (unpackExtended d).e ≤ 31) :
    fixPair ra d s = loadPair ra (BitVec.ofInt 32 (Int.tdiv (scaledValue (unpackExtended d)) (twoPow 167))) s := by
  have part : integerPart 40 31 (unpackExtended d) = some _ :=
    integerPart_of_le (n := 31) (allowed_unpackExtended legal) small (by decide)
  rw [fixPair, if_pos legal, part]
  rfl

theorem fixPair_of_gt {d : Triple} (legal : isLegalFloat d = true) (large : 31 < (unpackExtended d).e) :
    fixPair ra d s = (s.setCs (csSign (s.pair ra))).requestIf true 4 := by
  rw [fixPair, if_pos legal, integerPart, if_pos large]

end Conversions

end Sys2Proof.Claims

open Sys2Proof Sys2Proof.Machine Sys2Proof.Claims

/-- Settles O52: the integer part and the normalized number, each in the scale of `scaledValue`. -/
theorem conversionResult : Obligations.ConversionResult := by
  unfold Obligations.ConversionResult
  intro ra rb s f e
  refine ⟨fun legal => ⟨fun small => ⟨?_, _, exec_fix ra rb s, ?_⟩, fun large => ⟨_, exec_fix ra rb s, ?_⟩⟩,
    fun legal => ⟨fun small => ⟨?_, _, exec_efix ra rb s, ?_⟩, fun large => ⟨_, exec_efix ra rb s, ?_⟩⟩,
    ⟨floatOfWord (s.reg rb), (floatOfWord_exact _).1, (floatOfWord_exact _).2, _, rfl, leaves_loadPair s 1 ra _⟩,
    ⟨extendedOfDouble f, (extendedOfDouble_exact f).1, (extendedOfDouble_exact f).2, _, rfl,
      leaves_loadTriple s 1 ra _⟩⟩
  · exact toInt_integerPart (n := 15) (allowed_unpackFloat legal) small (by decide)
  · rw [fixWord_of_le _ ra legal small]
    exact leaves_loadWord s 1 ra _
  · rw [fixWord_of_gt _ ra legal large]
    exact leaves_keep s 1 (s.reg ra)
  · exact toInt_integerPart (n := 31) (allowed_unpackExtended legal) small (by decide)
  · rw [fixPair_of_le _ ra legal small]
    exact leaves_loadPair s 1 ra _
  · rw [fixPair_of_gt _ ra legal large]
    exact leaves_keep s 1 (s.reg ra ++ s.reg (ra + 1))
end
